-- ==== Sys2Proof/Word.lean ====
section
/-! DEFINITION. The widths of the machine's values: bytes, 16-bit words, 12-bit addresses, register indexes
(10_state.md R20 to R29, 30_encoding.md R61). -/

namespace Sys2Proof

/-- An unsigned 8-bit value: a register, a timer, a memory byte, the immediate `kk`. -/
abbrev Byte := BitVec 8

/-- An unsigned 16-bit value: `I`, `pc`, a stack entry, an instruction word. -/
abbrev Word := BitVec 16

/-- The 12-bit immediate address `nnn`. -/
abbrev Addr12 := BitVec 12

/-- A 4-bit register index: every value names one of V0..VF (30_encoding.md R62). -/
abbrev RegIdx := Fin 16

end Sys2Proof
end

