-- ==== Sys2Proof/Config.lean ====
section
/-! DEFINITION. What an implementation fixes: the named parameters of 00_scope.md R10 as plain data, and the
free value RAND. The parameters' default values stand in Machine/Params.lean. -/

namespace Sys2Proof.Config

/-- VF_WRITE_ORDER: which write of 8XY4, 8XY5, 8XY6, 8XY7 and 8XYE comes last (42_alu.md R111). -/
inductive VfWriteOrder where
  | flagLast
  | resultLast
  deriving DecidableEq, Repr

/-- SKIP_RR_DECODE: whether groups 5 and 9 test their low nibble (30_encoding.md R66). -/
inductive SkipRRDecode where
  | strict
  | ignoreLowNibble
  deriving DecidableEq, Repr

/-- KEYWAIT_LAST_KEY: the last key FX0A scans, 14 or 15 (45_timers_keys.md R153). -/
inductive KeywaitLastKey where
  | key14
  | key15
  deriving DecidableEq, Repr

/-- The parameters a model takes as arguments (00_scope.md R10, 10_state.md R36). -/
structure Params where
  /-- FONT: the 80 bytes LoadGlyphs writes (70_reset_and_hazards.md R191). -/
  font : Vector Byte 80
  keywaitLastKey : KeywaitLastKey
  vfWriteOrder : VfWriteOrder
  skipRRDecode : SkipRRDecode
  /-- STACK_CAPACITY: `none` is `unbounded` (10_state.md R27). -/
  stackCapacity : Option Nat
  deriving DecidableEq, Repr

/-- RAND: the byte of the n-th draw, a FREE VALUE with no law (60_exceptions.md R179; log entry 2).
It has no body, so no proof can use what it is. -/
opaque rand : Nat → Byte

end Sys2Proof.Config
end

