-- ==== Sys2Proof/Machine/Params.lean ====
section
/-! DEFINITION. The spec's default value of each parameter (00_scope.md R10; log entry 1). -/

namespace Sys2Proof.Machine

open Sys2Proof.Config

/-- The five bytes of one glyph, top row first. -/
def glyph (a b c d e : Byte) : Vector Byte 5 := #v[a, b, c, d, e]

/-- The default glyphs of the digits 0 to 7 (70_reset_and_hazards.md R192). -/
def defaultGlyphs0To7 : Vector Byte 40 :=
  (glyph 0xF0 0x90 0x90 0x90 0xF0 ++ glyph 0x20 0x60 0x20 0x20 0x70 ++
   glyph 0xF0 0x10 0xF0 0x80 0xF0 ++ glyph 0xF0 0x10 0xF0 0x10 0xF0 ++
   glyph 0x90 0x90 0xF0 0x10 0x10 ++ glyph 0xF0 0x80 0xF0 0x10 0xF0 ++
   glyph 0xF0 0x80 0xF0 0x90 0xF0 ++ glyph 0xF0 0x10 0x20 0x40 0x40).cast rfl

/-- The default glyphs of the digits 8 to F (70_reset_and_hazards.md R192). -/
def defaultGlyphs8ToF : Vector Byte 40 :=
  (glyph 0xF0 0x90 0xF0 0x90 0xF0 ++ glyph 0xF0 0x90 0xF0 0x10 0xF0 ++
   glyph 0xF0 0x90 0xF0 0x90 0x90 ++ glyph 0xE0 0x90 0xE0 0x90 0xE0 ++
   glyph 0xF0 0x80 0x80 0x80 0xF0 ++ glyph 0xE0 0x90 0x90 0x90 0xE0 ++
   glyph 0xF0 0x80 0xF0 0x80 0xF0 ++ glyph 0xF0 0x80 0xF0 0x80 0x80).cast rfl

/-- The default FONT: the glyphs of the digits 0 to F in order, five bytes each (70_reset_and_hazards.md R192). -/
def defaultFont : Vector Byte 80 := (defaultGlyphs0To7 ++ defaultGlyphs8ToF).cast rfl

/-- The defaults of 00_scope.md R10: the font above, 14, `flagLast`, `strict` and `unbounded`. -/
def defaultParams : Params where
  font := defaultFont
  keywaitLastKey := .key14
  vfWriteOrder := .flagLast
  skipRRDecode := .strict
  stackCapacity := none

/-- KEYWAIT_LAST_KEY as a number. -/
def keywaitLast : KeywaitLastKey → Nat
  | .key14 => 14
  | .key15 => 15

end Sys2Proof.Machine
end

