-- ==== Sys2Proof/Machine/Fields.lean ====
section
/-! DEFINITION. The fields of an instruction word, and the byte order words are stored in
(30_encoding.md R61, 20_memory.md R42). -/

namespace Sys2Proof.Machine

/-- `op`, bits 15:12. -/
def opField (w : Word) : BitVec 4 := w.extractLsb' 12 4

/-- `x`, bits 11:8, a register index. -/
def xField (w : Word) : RegIdx := (w.extractLsb' 8 4).toFin

/-- `y`, bits 7:4, a register index. -/
def yField (w : Word) : RegIdx := (w.extractLsb' 4 4).toFin

/-- `n`, bits 3:0: a sub-opcode or the sprite height. -/
def nField (w : Word) : BitVec 4 := w.extractLsb' 0 4

/-- `kk`, bits 7:0. -/
def kkField (w : Word) : Byte := w.extractLsb' 0 8

/-- `nnn`, bits 11:0. -/
def nnnField (w : Word) : Addr12 := w.extractLsb' 0 12

/-- The word of two consecutive bytes: big-endian, the byte at the lower address is bits 15:8 (R42). -/
def wordOfBytes (hi lo : Byte) : Word := hi ++ lo

/-- The byte of a word that lies at the lower address. -/
def highByte (w : Word) : Byte := w.extractLsb' 8 8

/-- The byte of a word that lies at the higher address. -/
def lowByte (w : Word) : Byte := w.extractLsb' 0 8

/-- A word of the form op, nnn. -/
def formNNN (op : BitVec 4) (nnn : Addr12) : Word := op ++ nnn

/-- A word of the form op, x, kk. -/
def formXKK (op : BitVec 4) (x : RegIdx) (kk : Byte) : Word := op ++ BitVec.ofFin (w := 4) x ++ kk

/-- A word of the form op, x, y, n. -/
def formXYN (op : BitVec 4) (x y : RegIdx) (n : BitVec 4) : Word :=
  op ++ BitVec.ofFin (w := 4) x ++ BitVec.ofFin (w := 4) y ++ n

end Sys2Proof.Machine
end

