-- ==== Sys2Proof/Syntax.lean ====
section
/-! DEFINITION. The instructions: one constructor per row of the opcode map (30_encoding.md R71) and one for
the unrecognized words that are not SYS (30_encoding.md R69, R83). -/

namespace Sys2Proof

/-- An instruction with its operand fields (30_encoding.md R61, R71). -/
inductive Instr where
  /-- 0NNN: the legacy machine-subroutine word, a no-op (40_execution_cycle.md R85). -/
  | sys (nnn : Addr12)
  /-- Every other unrecognized word, kept whole (30_encoding.md R69). -/
  | unrecognized (w : Word)
  /-- 00E0. -/
  | cls
  /-- 00EE. -/
  | ret
  /-- 1NNN. -/
  | jp (nnn : Addr12)
  /-- 2NNN. -/
  | call (nnn : Addr12)
  /-- 3XNN. -/
  | seImm (x : RegIdx) (kk : Byte)
  /-- 4XNN. -/
  | sneImm (x : RegIdx) (kk : Byte)
  /-- 5XY0. -/
  | seReg (x y : RegIdx)
  /-- 6XNN. -/
  | ldImm (x : RegIdx) (kk : Byte)
  /-- 7XNN. -/
  | addImm (x : RegIdx) (kk : Byte)
  /-- 8XY0. -/
  | ldReg (x y : RegIdx)
  /-- 8XY1. -/
  | orReg (x y : RegIdx)
  /-- 8XY2. -/
  | andReg (x y : RegIdx)
  /-- 8XY3. -/
  | xorReg (x y : RegIdx)
  /-- 8XY4. -/
  | addReg (x y : RegIdx)
  /-- 8XY5. -/
  | subReg (x y : RegIdx)
  /-- 8XY6. -/
  | shrReg (x y : RegIdx)
  /-- 8XY7. -/
  | subnReg (x y : RegIdx)
  /-- 8XYE. -/
  | shlReg (x y : RegIdx)
  /-- 9XY0. -/
  | sneReg (x y : RegIdx)
  /-- ANNN. -/
  | ldI (nnn : Addr12)
  /-- BNNN. -/
  | jpV0 (nnn : Addr12)
  /-- CXNN. -/
  | rnd (x : RegIdx) (kk : Byte)
  /-- DXYN. -/
  | drw (x y : RegIdx) (n : Fin 16)
  /-- EX9E. -/
  | skp (x : RegIdx)
  /-- EXA1. -/
  | sknp (x : RegIdx)
  /-- FX07. -/
  | ldVxDt (x : RegIdx)
  /-- FX0A. -/
  | ldVxK (x : RegIdx)
  /-- FX15. -/
  | ldDtVx (x : RegIdx)
  /-- FX18. -/
  | ldStVx (x : RegIdx)
  /-- FX1E. -/
  | addIVx (x : RegIdx)
  /-- FX29. -/
  | ldFVx (x : RegIdx)
  /-- FX33. -/
  | ldBVx (x : RegIdx)
  /-- FX55. -/
  | ldMemVx (x : RegIdx)
  /-- FX65. -/
  | ldVxMem (x : RegIdx)
  deriving DecidableEq, Repr

end Sys2Proof
end

