-- ==== Sys2Proof/WellFormed.lean ====
section
/-! DEFINITION. Which terms of `Instr` stand for a word: the two no-op constructors carry a word of the
unrecognized space (30_encoding.md R69) and no other; every other field's type is already exact. -/

namespace Sys2Proof

open Sys2Proof.Config Sys2Proof.Machine

/-- 30_encoding.md R69's list, less its first line (the SYS family, which is `Instr.sys`). -/
def isUnrecognized (sk : SkipRRDecode) (w : Word) : Bool :=
  match (opField w).toNat with
  | 0x5 => sk == .strict && nField w != 0
  | 0x9 => sk == .strict && nField w != 0
  | 0x8 =>
    match (nField w).toNat with
    | 0x8 | 0x9 | 0xA | 0xB | 0xC | 0xD | 0xF => true
    | _ => false
  | 0xE =>
    match (kkField w).toNat with
    | 0x9E | 0xA1 => false
    | _ => true
  | 0xF =>
    match (kkField w).toNat with
    | 0x07 | 0x0A | 0x15 | 0x18 | 0x1E | 0x29 | 0x33 | 0x55 | 0x65 => false
    | _ => true
  | _ => false

/-- A well-formed instruction, for a decoder with parameter `sk`. -/
def Instr.wellFormed (sk : SkipRRDecode) : Instr → Bool
  | .sys nnn => nnn != 0x0E0 && nnn != 0x0EE
  | .unrecognized w => isUnrecognized sk w
  | .cls => true
  | .ret => true
  | .jp _ => true
  | .call _ => true
  | .seImm _ _ => true
  | .sneImm _ _ => true
  | .seReg _ _ => true
  | .ldImm _ _ => true
  | .addImm _ _ => true
  | .ldReg _ _ => true
  | .orReg _ _ => true
  | .andReg _ _ => true
  | .xorReg _ _ => true
  | .addReg _ _ => true
  | .subReg _ _ => true
  | .shrReg _ _ => true
  | .subnReg _ _ => true
  | .shlReg _ _ => true
  | .sneReg _ _ => true
  | .ldI _ => true
  | .jpV0 _ => true
  | .rnd _ _ => true
  | .drw _ _ _ => true
  | .skp _ => true
  | .sknp _ => true
  | .ldVxDt _ => true
  | .ldVxK _ => true
  | .ldDtVx _ => true
  | .ldStVx _ => true
  | .addIVx _ => true
  | .ldFVx _ => true
  | .ldBVx _ => true
  | .ldMemVx _ => true
  | .ldVxMem _ => true

end Sys2Proof
end

