-- ==== Sys2Proof/Decode.lean ====
section
/-! DEFINITION. The decoder, group by group as 30_encoding.md R63 to R70 give it, the encoder written from the
opcode map (R71), and the host's reading of an opcode-table word. -/

namespace Sys2Proof

open Sys2Proof.Config Sys2Proof.Machine

/-- Group 0: 00E0 is CLS, 00EE is RET, every other word is SYS (30_encoding.md R64). -/
def decodeGroup0 (w : Word) : Instr :=
  match (nnnField w).toNat with
  | 0x0E0 => .cls
  | 0x0EE => .ret
  | _ => .sys (nnnField w)

/-- Groups 5 and 9: a skip when the low nibble is 0, or always under `ignoreLowNibble` (30_encoding.md R66). -/
def decodeSkipRR (sk : SkipRRDecode) (w : Word) (skip : RegIdx → RegIdx → Instr) : Instr :=
  if nField w = 0 then skip (xField w) (yField w)
  else
    match sk with
    | .strict => .unrecognized w
    | .ignoreLowNibble => skip (xField w) (yField w)

/-- Group 8: the low nibble selects the operation (30_encoding.md R65). -/
def decodeGroup8 (w : Word) : Instr :=
  match (nField w).toNat with
  | 0x0 => .ldReg (xField w) (yField w)
  | 0x1 => .orReg (xField w) (yField w)
  | 0x2 => .andReg (xField w) (yField w)
  | 0x3 => .xorReg (xField w) (yField w)
  | 0x4 => .addReg (xField w) (yField w)
  | 0x5 => .subReg (xField w) (yField w)
  | 0x6 => .shrReg (xField w) (yField w)
  | 0x7 => .subnReg (xField w) (yField w)
  | 0xE => .shlReg (xField w) (yField w)
  | _ => .unrecognized w

/-- Group E: the low byte selects the operation (30_encoding.md R67). -/
def decodeGroupE (w : Word) : Instr :=
  match (kkField w).toNat with
  | 0x9E => .skp (xField w)
  | 0xA1 => .sknp (xField w)
  | _ => .unrecognized w

/-- Group F: the low byte selects the operation (30_encoding.md R68). -/
def decodeGroupF (w : Word) : Instr :=
  match (kkField w).toNat with
  | 0x07 => .ldVxDt (xField w)
  | 0x0A => .ldVxK (xField w)
  | 0x15 => .ldDtVx (xField w)
  | 0x18 => .ldStVx (xField w)
  | 0x1E => .addIVx (xField w)
  | 0x29 => .ldFVx (xField w)
  | 0x33 => .ldBVx (xField w)
  | 0x55 => .ldMemVx (xField w)
  | 0x65 => .ldVxMem (xField w)
  | _ => .unrecognized w

/-- Decode of one word: total (30_encoding.md R63, R70; 40_execution_cycle.md R83). -/
def decodeWord (sk : SkipRRDecode) (w : Word) : Instr :=
  match (opField w).toNat with
  | 0x0 => decodeGroup0 w
  | 0x1 => .jp (nnnField w)
  | 0x2 => .call (nnnField w)
  | 0x3 => .seImm (xField w) (kkField w)
  | 0x4 => .sneImm (xField w) (kkField w)
  | 0x5 => decodeSkipRR sk w .seReg
  | 0x6 => .ldImm (xField w) (kkField w)
  | 0x7 => .addImm (xField w) (kkField w)
  | 0x8 => decodeGroup8 w
  | 0x9 => decodeSkipRR sk w .sneReg
  | 0xA => .ldI (nnnField w)
  | 0xB => .jpV0 (nnnField w)
  | 0xC => .rnd (xField w) (kkField w)
  | 0xD => .drw (xField w) (yField w) (nField w).toFin
  | 0xE => decodeGroupE w
  | _ => decodeGroupF w

/-- Why a byte list is no instruction. No word is ever rejected (30_encoding.md R70). -/
inductive DecodeError where
  /-- Fewer than the two bytes every instruction has (30_encoding.md R60). -/
  | truncated
  deriving DecidableEq, Repr

/-- Decode the instruction at the front of a byte list; the bytes after it are given back. -/
def decode (sk : SkipRRDecode) : List Byte → Except DecodeError (Instr × List Byte)
  | hi :: lo :: rest => .ok (decodeWord sk (wordOfBytes hi lo), rest)
  | _ => .error .truncated

/-- The word of an instruction, by its row of 30_encoding.md R71. -/
def encode : Instr → Word
  | .sys nnn => formNNN 0x0 nnn
  | .unrecognized w => w
  | .cls => 0x00E0
  | .ret => 0x00EE
  | .jp nnn => formNNN 0x1 nnn
  | .call nnn => formNNN 0x2 nnn
  | .seImm x kk => formXKK 0x3 x kk
  | .sneImm x kk => formXKK 0x4 x kk
  | .seReg x y => formXYN 0x5 x y 0x0
  | .ldImm x kk => formXKK 0x6 x kk
  | .addImm x kk => formXKK 0x7 x kk
  | .ldReg x y => formXYN 0x8 x y 0x0
  | .orReg x y => formXYN 0x8 x y 0x1
  | .andReg x y => formXYN 0x8 x y 0x2
  | .xorReg x y => formXYN 0x8 x y 0x3
  | .addReg x y => formXYN 0x8 x y 0x4
  | .subReg x y => formXYN 0x8 x y 0x5
  | .shrReg x y => formXYN 0x8 x y 0x6
  | .subnReg x y => formXYN 0x8 x y 0x7
  | .shlReg x y => formXYN 0x8 x y 0xE
  | .sneReg x y => formXYN 0x9 x y 0x0
  | .ldI nnn => formNNN 0xA nnn
  | .jpV0 nnn => formNNN 0xB nnn
  | .rnd x kk => formXKK 0xC x kk
  | .drw x y n => formXYN 0xD x y (BitVec.ofFin (w := 4) n)
  | .skp x => formXKK 0xE x 0x9E
  | .sknp x => formXKK 0xE x 0xA1
  | .ldVxDt x => formXKK 0xF x 0x07
  | .ldVxK x => formXKK 0xF x 0x0A
  | .ldDtVx x => formXKK 0xF x 0x15
  | .ldStVx x => formXKK 0xF x 0x18
  | .addIVx x => formXKK 0xF x 0x1E
  | .ldFVx x => formXKK 0xF x 0x29
  | .ldBVx x => formXKK 0xF x 0x33
  | .ldMemVx x => formXKK 0xF x 0x55
  | .ldVxMem x => formXKK 0xF x 0x65

/-- The bytes of an instruction in memory, lowest address first (20_memory.md R42). -/
def encodeBytes (i : Instr) : List Byte := [highByte (encode i), lowByte (encode i)]

/-- The 16-bit word an opcode-table row's bits stand for: bit 0 is the least significant, and bits the row does
not give are 0. -/
def tableWord (nbits w : Nat) : Word := BitVec.ofNat 16 (w % 2 ^ nbits)

/-- What the decoder reads from the bytes of an opcode-table word, at the default parameters. -/
def decodeTableWord (nbits w : Nat) : Option Instr :=
  match decode defaultParams.skipRRDecode [highByte (tableWord nbits w), lowByte (tableWord nbits w)] with
  | .ok (i, _) => some i
  | .error _ => none

end Sys2Proof
end

