-- ==== Sys2Proof/Machine/State.lean ====
section
/-! DEFINITION. The machine state, why a step can stop, and the state at creation
(10_state.md R20 to R39, 60_exceptions.md R161 to R163, 70_reset_and_hazards.md R190). -/

namespace Sys2Proof.Machine

open Sys2Proof.Config

/-- Memory as the list of its non-zero bytes, by strictly rising address (`Memory.wf`); an address it does not
list reads as 0, the creation value of every byte (10_state.md R37). -/
abbrev Memory := List Host.Cell

/-- The display surface, 32 rows of 64 pixels (10_state.md R30); `pixel` reads it as (column, row). -/
abbrev Display := Vector (Vector Bool 64) 32

/-- The fault codes of 60_exceptions.md R162. -/
inductive FaultCode where
  /-- Code 1: every Step, at fetch, when `pc > 0xFFE`. -/
  | fetchOutOfRange
  /-- Code 2: DXYN, FX33, FX55, FX65, when a byte address is above 0xFFF. -/
  | memOutOfRange
  /-- Code 3: EX9E, EXA1, when Vx > 0x0F. -/
  | keyIndexOutOfRange
  /-- Code 4: 2NNN on a full stack of finite capacity. -/
  | stackOverflow
  /-- Code 5: the host's LoadProgram of too long an image. -/
  | imageTooLarge
  deriving DecidableEq, Repr

/-- The fault record `(code, pc, info)` (60_exceptions.md R163). -/
structure FaultRecord where
  code : FaultCode
  pc : Word
  info : Nat
  deriving DecidableEq, Repr

/-- The whole machine state (10_state.md R35), and the model's own last two fields. -/
structure State where
  /-- V0..VF (R20); VF is `v[15]` (R21). -/
  v : Vector Byte 16
  /-- The index register (R22). -/
  I : Word
  /-- The program counter (R23). -/
  pc : Word
  /-- The call stack, the last pushed entry last (R26). -/
  stack : List Word
  /-- The delay timer (R28). -/
  DT : Byte
  /-- The sound timer (R29). -/
  ST : Byte
  /-- The 4096 bytes of memory (R32). -/
  mem : Memory
  /-- The display surface (R30). -/
  disp : Display
  /-- The pressed keys (R31). -/
  key : Vector Bool 16
  /-- The flag "redraw pending" (R33). -/
  redraw : Bool
  /-- The flag "sound active" (R33). -/
  soundActive : Bool
  /-- `none`, or the record of the fault that stopped the machine (R34). -/
  fault : Option FaultRecord
  /-- The model's own field: the parameters the machine was built with (R36; log entry 1). -/
  params : Params
  /-- The model's own field: how many bytes of RAND have been drawn (log entry 2). -/
  draws : Nat
  deriving DecidableEq, Repr

/-- Why the host outcome `fault` is answered. -/
inductive Fault where
  /-- Raised by Step and Frame on a machine whose `fault` field holds a record: it has no transition
  (60_exceptions.md R161, R178). Safe: the spec gives no next state. -/
  | faulted (r : FaultRecord)
  deriving DecidableEq, Repr

/-- Why an operation is refused. -/
inductive Refusal where
  /-- An instruction without a meaning yet, by its mnemonic. Raised by no arm of this model. Safe. -/
  | notModelled (mnemonic : String)
  /-- Raised by the host operation SetKey when its key index is above 15: the operation has no transition
  (60_exceptions.md R172). Safe: the spec refuses it. -/
  | notAKey (k : Nat)
  deriving DecidableEq, Repr

/-- A new machine with parameters `p`, whose next draw of RAND is the `n`-th
(10_state.md R37, 70_reset_and_hazards.md R190). -/
def State.create (p : Params) (n : Nat) : State where
  v := Vector.replicate 16 0
  I := 0
  pc := 0x200
  stack := []
  DT := 0
  ST := 0
  mem := []
  disp := Vector.replicate 32 (Vector.replicate 64 false)
  key := Vector.replicate 16 false
  redraw := false
  soundActive := false
  fault := none
  params := p
  draws := n

/-- The machine right after creation, with the default parameters (log entries 1 and 2). -/
def State.reset : State := State.create defaultParams 0

end Sys2Proof.Machine
end

