-- ==== Sys2Proof/Machine/Ops.lean ====
section
/-! DEFINITION. The named operations over registers, memory, the stack, the display and the control state, and
raising a fault (00_scope.md R14, 20_memory.md, 60_exceptions.md R161). -/

namespace Sys2Proof.Machine

open Sys2Proof.Config

/-! ### Memory -/

/-- The highest address (20_memory.md R40). -/
def lastAddr : Nat := 0xFFF

/-- Set the byte at `a` in a canonical list; a 0 byte is not listed. -/
def Memory.put (a : Nat) (b : Byte) : Memory → Memory
  | [] => if b = 0 then [] else [(a, b)]
  | (a', b') :: m =>
    if a < a' then (if b = 0 then (a', b') :: m else (a, b) :: (a', b') :: m)
    else if a = a' then (if b = 0 then m else (a, b) :: m)
    else (a', b') :: Memory.put a b m

/-- MemWrite: store one byte (00_scope.md R14). The callers check the range first; an address above 0xFFF has
no byte, and writing it changes nothing (log entry 6). -/
def Memory.write (m : Memory) (a : Nat) (b : Byte) : Memory :=
  if a ≤ lastAddr then Memory.put a b m else m

/-- MemRead: the byte at `a`, 0 where none is listed (00_scope.md R14, 20_memory.md R50). -/
def Memory.read : Memory → Nat → Byte
  | [], _ => 0
  | (a', b') :: m, a => if a = a' then b' else Memory.read m a

/-- Store consecutive bytes from `a`, in ascending order. -/
def Memory.writeBytes (m : Memory) (a : Nat) : List Byte → Memory
  | [] => m
  | b :: bs => Memory.writeBytes (Memory.write m a b) (a + 1) bs

/-- The canonical form: addresses of the machine, strictly rising, no byte equal to an unlisted one. -/
abbrev Memory.wf (m : Memory) : Prop :=
  m.Pairwise (fun c d => c.1 < d.1) ∧ ∀ c ∈ m, c.1 ≤ lastAddr ∧ c.2 ≠ 0

/-- CheckRange's condition: some byte of the `n` from `a` lies above 0xFFF. Addresses are integers and never
wrap (00_scope.md R14, 20_memory.md R46, R47). -/
def rangeFaults (a n : Nat) : Bool := decide (0 < n ∧ lastAddr < a + n - 1)

/-! ### Raising a fault -/

/-- Raise a fault: the record is written and nothing else changes (60_exceptions.md R161). -/
def State.raise (s : State) (code : FaultCode) (info : Nat) : State :=
  { s with fault := some { code := code, pc := s.pc, info := info } }

/-- An access to `n` bytes from I: the range is checked before any write (20_memory.md R46). -/
def accessAtI (n : Nat) (effect : State → State) (s : State) : Host.Outcome State Fault Refusal :=
  if rangeFaults s.I.toNat n then .next (s.raise .memOutOfRange s.I.toNat) else .next (effect s)

/-! ### Registers and control state -/

/-- Read Vx. -/
def State.reg (s : State) (x : RegIdx) : Byte := s.v[x]

/-- Write Vx; VF is an ordinary slot (10_state.md R21). -/
def State.setReg (s : State) (x : RegIdx) (b : Byte) : State := { s with v := s.v.set x b }

/-- Write I; no mask (10_state.md R22). -/
def State.setI (s : State) (w : Word) : State := { s with I := w }

/-- Write pc. -/
def State.setPc (s : State) (w : Word) : State := { s with pc := w }

/-- `pc <- pc + 2`, modulo 65536 (40_execution_cycle.md R84). -/
def State.advance (s : State) : State := s.setPc (s.pc + 2)

/-- The skip convention: `pc + 4` when the condition holds, else `pc + 2` (41_control_flow.md R94). -/
def State.skipIf (s : State) (cond : Bool) : State := if cond then s.setPc (s.pc + 4) else s.advance

/-- Write DT (45_timers_keys.md R154). -/
def State.setDT (s : State) (b : Byte) : State := { s with DT := b }

/-- Write ST (45_timers_keys.md R155). -/
def State.setST (s : State) (b : Byte) : State := { s with ST := b }

/-- Replace memory. -/
def State.setMem (s : State) (m : Memory) : State := { s with mem := m }

/-- Replace all registers (FX65). -/
def State.setRegs (s : State) (v : Vector Byte 16) : State := { s with v := v }

/-- Write one key flag; only the host does (10_state.md R31). -/
def State.setKey (s : State) (k : Fin 16) (b : Bool) : State := { s with key := s.key.set k b }

/-- Take the next byte of RAND: the state after the draw. The byte is `Config.rand s.draws` (log entry 2). -/
def State.drawTaken (s : State) : State := { s with draws := s.draws + 1 }

/-! ### Stack -/

/-- `push(w)` appends (10_state.md R26). -/
def State.push (s : State) (w : Word) : State := { s with stack := s.stack ++ [w] }

/-- The entry `pop()` returns: the last, if there is one. -/
def State.top (s : State) : Option Word := s.stack.getLast?

/-- The state after `pop()`. -/
def State.popped (s : State) : State := { s with stack := s.stack.dropLast }

/-- Whether a CALL finds a stack of finite capacity full (41_control_flow.md R93). -/
def State.stackFull (s : State) : Bool := s.params.stackCapacity == some s.stack.length

/-! ### Display -/

/-- `disp[col][row]` (10_state.md R30). -/
def pixel (d : Display) (col : Fin 64) (row : Fin 32) : Bool := d[row][col]

/-- Write one pixel. -/
def setPixel (d : Display) (col : Fin 64) (row : Fin 32) (b : Bool) : Display :=
  d.set row (d[row].set col b)

/-- A display with every pixel off. -/
def blankDisplay : Display := Vector.replicate 32 (Vector.replicate 64 false)

/-- Replace the display and mark redraw pending, as 00E0 and every DXYN do (44_display.md R145). -/
def State.present (s : State) (d : Display) : State := { s with disp := d, redraw := true }

/-! ### Fetch -/

/-- Whether both bytes of an instruction at `pc` lie in memory (40_execution_cycle.md R82). -/
def State.fetchable (s : State) : Bool := decide (s.pc.toNat ≤ 0xFFE)

/-- Fetch: the big-endian word at `pc`, `none` where it faults (40_execution_cycle.md R81, R82). -/
def State.fetch (s : State) : Option Word :=
  if s.fetchable then
    some (wordOfBytes (Memory.read s.mem s.pc.toNat) (Memory.read s.mem (s.pc.toNat + 1)))
  else none

/-- Store a word where the next fetch reads it; nothing changes where no fetch can (log entry 5). -/
def State.placeAtPc (s : State) (w : Word) : State :=
  if s.fetchable then s.setMem (Memory.writeBytes s.mem s.pc.toNat [highByte w, lowByte w]) else s

end Sys2Proof.Machine
end

