-- ==== Sys2Proof/Machine/Flags.lean ====
section
/-! DEFINITION. The flag computations that go to VF, and the one operation that writes a result and its flag
(42_alu.md R110, R111, R118 to R122). -/

namespace Sys2Proof.Machine

open Sys2Proof.Config

/-- VF, which is V[15] (10_state.md R21). -/
def VF : RegIdx := 15

/-- A flag as the byte VF receives. -/
def flagByte (b : Bool) : Byte := if b then 1 else 0

/-- Carry out of bit 7: the exact sum is above 255 (R118). -/
def carryFlag (a b : Byte) : Byte := flagByte (decide (255 < a.toNat + b.toNat))

/-- No borrow in `a - b`, equality included (R119, R121). -/
def noBorrowFlag (a b : Byte) : Byte := flagByte (decide (b.toNat ≤ a.toNat))

/-- The bit a right shift by one shifts out (R120). -/
def lowBitFlag (b : Byte) : Byte := flagByte (b.getLsbD 0)

/-- The bit a left shift by one shifts out (R122). -/
def highBitFlag (b : Byte) : Byte := flagByte (b.getLsbD 7)

/-- WriteResultAndFlag, in the order VF_WRITE_ORDER names (R111). -/
def State.writeResultAndFlag (s : State) (x : RegIdx) (r f : Byte) : State :=
  match s.params.vfWriteOrder with
  | .flagLast => (s.setReg x r).setReg VF f
  | .resultLast => (s.setReg VF f).setReg x r

end Sys2Proof.Machine
end

