-- ==== Sys2Proof/Machine/Alu.lean ====
section
/-! DEFINITION. Register arithmetic and logic, and the masked random byte (42_alu.md R112 to R123). -/

namespace Sys2Proof.Machine

/-- 6XNN (R112). -/
def execLdImm (x : RegIdx) (kk : Byte) (s : State) : Host.Outcome State Fault Refusal :=
  .next (s.setReg x kk).advance

/-- 7XNN: no carry flag (R113). -/
def execAddImm (x : RegIdx) (kk : Byte) (s : State) : Host.Outcome State Fault Refusal :=
  .next (s.setReg x (s.reg x + kk)).advance

/-- 8XY0 (R114). -/
def execLdReg (x y : RegIdx) (s : State) : Host.Outcome State Fault Refusal :=
  .next (s.setReg x (s.reg y)).advance

/-- 8XY1 (R115). -/
def execOrReg (x y : RegIdx) (s : State) : Host.Outcome State Fault Refusal :=
  .next (s.setReg x (s.reg x ||| s.reg y)).advance

/-- 8XY2 (R116). -/
def execAndReg (x y : RegIdx) (s : State) : Host.Outcome State Fault Refusal :=
  .next (s.setReg x (s.reg x &&& s.reg y)).advance

/-- 8XY3 (R117). -/
def execXorReg (x y : RegIdx) (s : State) : Host.Outcome State Fault Refusal :=
  .next (s.setReg x (s.reg x ^^^ s.reg y)).advance

/-- 8XY4 (R118). -/
def execAddReg (x y : RegIdx) (s : State) : Host.Outcome State Fault Refusal :=
  .next (s.writeResultAndFlag x (s.reg x + s.reg y) (carryFlag (s.reg x) (s.reg y))).advance

/-- 8XY5: Vx - Vy (R119). -/
def execSubReg (x y : RegIdx) (s : State) : Host.Outcome State Fault Refusal :=
  .next (s.writeResultAndFlag x (s.reg x - s.reg y) (noBorrowFlag (s.reg x) (s.reg y))).advance

/-- 8XY6: the source is Vy (R120). -/
def execShrReg (x y : RegIdx) (s : State) : Host.Outcome State Fault Refusal :=
  .next (s.writeResultAndFlag x (s.reg y >>> 1) (lowBitFlag (s.reg y))).advance

/-- 8XY7: Vy - Vx (R121). -/
def execSubnReg (x y : RegIdx) (s : State) : Host.Outcome State Fault Refusal :=
  .next (s.writeResultAndFlag x (s.reg y - s.reg x) (noBorrowFlag (s.reg y) (s.reg x))).advance

/-- 8XYE: the source is Vy (R122). -/
def execShlReg (x y : RegIdx) (s : State) : Host.Outcome State Fault Refusal :=
  .next (s.writeResultAndFlag x (s.reg y <<< 1) (highBitFlag (s.reg y))).advance

/-- CXNN for a given draw: the byte masked by `kk`. One draw is taken, whatever `kk` is (R123). -/
def randomInto (draw : Byte) (x : RegIdx) (kk : Byte) (s : State) : State :=
  (s.drawTaken.setReg x (draw &&& kk)).advance

/-- CXNN: the draw is the next free byte of RAND (R123; log entry 2). -/
def execRnd (x : RegIdx) (kk : Byte) (s : State) : Host.Outcome State Fault Refusal :=
  .next (randomInto (Config.rand s.draws) x kk s)

end Sys2Proof.Machine
end

