-- ==== Sys2Proof/Machine/Operands.lean ====
section
/-! DEFINITION. The operand forms: immediate addresses, key operands, the key scan, glyph addresses, decimal
digits and register ranges (30_encoding.md R62, 43_index_memory.md, 45_timers_keys.md). -/

namespace Sys2Proof.Machine

open Sys2Proof.Config

/-- `zext_16(nnn)` (30_encoding.md R62). -/
def absolute (nnn : Addr12) : Word := nnn.setWidth 16

/-- A byte as a 16-bit value. -/
def widen (b : Byte) : Word := b.setWidth 16

/-- The key Vx names, `none` when Vx > 0x0F (45_timers_keys.md R150). -/
def State.keyOperand (s : State) (x : RegIdx) : Option (Fin 16) :=
  if h : (s.reg x).toNat < 16 then some ⟨(s.reg x).toNat, h⟩ else none

/-- The lowest pressed key of 0..KEYWAIT_LAST_KEY, if there is one (45_timers_keys.md R153). -/
def State.scanKeys (s : State) : Option Nat :=
  (s.key.toList.take (keywaitLast s.params.keywaitLastKey + 1)).findIdx? id

/-- FX29's address: five bytes a glyph, the whole byte multiplied (43_index_memory.md R132). -/
def glyphAddress (b : Byte) : Word := widen b * 5

/-- The hundreds, tens and units digits (43_index_memory.md R133). -/
def decimalDigits (b : Byte) : List Byte :=
  [BitVec.ofNat 8 (b.toNat / 100), BitVec.ofNat 8 (b.toNat / 10 % 10), BitVec.ofNat 8 (b.toNat % 10)]

/-- V0..Vx in ascending order (43_index_memory.md R134). -/
def State.regsUpTo (s : State) (x : RegIdx) : List Byte := s.v.toList.take (x.val + 1)

/-- The registers after `V[k] <- MemRead(a + k)` for the first `n` of them (43_index_memory.md R135). -/
def loadRegs (m : Memory) (a : Nat) (v : Vector Byte 16) : Nat → Vector Byte 16
  | 0 => v
  | k + 1 => (loadRegs m a v k).setIfInBounds k (Memory.read m (a + k))

end Sys2Proof.Machine
end

