-- ==== Sys2Proof/Machine/ControlFlow.lean ====
section
/-! DEFINITION. Jumps, call, return and the register skips (41_control_flow.md R91 to R99). -/

namespace Sys2Proof.Machine

/-- 00EE: to the instruction after the popped CALL; a no-op on an empty stack (R91). -/
def execRet (s : State) : Host.Outcome State Fault Refusal :=
  match s.top with
  | some t => .next (s.popped.setPc (t + 2))
  | none => .next s.advance

/-- 1NNN (R92). -/
def execJp (nnn : Addr12) (s : State) : Host.Outcome State Fault Refusal := .next (s.setPc (absolute nnn))

/-- 2NNN: push the CALL's own address, unless a finite stack is full (R93). -/
def execCall (nnn : Addr12) (s : State) : Host.Outcome State Fault Refusal :=
  if s.stackFull then .next (s.raise .stackOverflow s.stack.length)
  else .next ((s.push s.pc).setPc (absolute nnn))

/-- 3XNN (R95). -/
def execSeImm (x : RegIdx) (kk : Byte) (s : State) : Host.Outcome State Fault Refusal :=
  .next (s.skipIf (s.reg x == kk))

/-- 4XNN (R96). -/
def execSneImm (x : RegIdx) (kk : Byte) (s : State) : Host.Outcome State Fault Refusal :=
  .next (s.skipIf (s.reg x != kk))

/-- 5XY0 (R97). -/
def execSeReg (x y : RegIdx) (s : State) : Host.Outcome State Fault Refusal :=
  .next (s.skipIf (s.reg x == s.reg y))

/-- 9XY0 (R98). -/
def execSneReg (x y : RegIdx) (s : State) : Host.Outcome State Fault Refusal :=
  .next (s.skipIf (s.reg x != s.reg y))

/-- BNNN: the register is always V0, and the sum is not masked (R99). -/
def execJpV0 (nnn : Addr12) (s : State) : Host.Outcome State Fault Refusal :=
  .next (s.setPc (absolute nnn + widen (s.reg 0)))

end Sys2Proof.Machine
end

