-- ==== Sys2Proof/Machine/IndexMemory.lean ====
section
/-! DEFINITION. The index register, and the transfers between registers and memory
(43_index_memory.md R130 to R135). -/

namespace Sys2Proof.Machine

/-- ANNN (R130). -/
def execLdI (nnn : Addr12) (s : State) : Host.Outcome State Fault Refusal :=
  .next (s.setI (absolute nnn)).advance

/-- FX1E: modulo 65536, VF untouched (R131). -/
def execAddIVx (x : RegIdx) (s : State) : Host.Outcome State Fault Refusal :=
  .next (s.setI (s.I + widen (s.reg x))).advance

/-- FX29 (R132). -/
def execLdFVx (x : RegIdx) (s : State) : Host.Outcome State Fault Refusal :=
  .next (s.setI (glyphAddress (s.reg x))).advance

/-- FX33's effect once its three addresses are in range (R133). -/
def storeDigits (x : RegIdx) (s : State) : State :=
  (s.setMem (Memory.writeBytes s.mem s.I.toNat (decimalDigits (s.reg x)))).advance

/-- FX33 (R133). -/
def execLdBVx (x : RegIdx) (s : State) : Host.Outcome State Fault Refusal :=
  accessAtI 3 (storeDigits x) s

/-- `I <- I + x + 1`, as FX55 and FX65 end (R134, R135). -/
def State.indexPast (s : State) (x : RegIdx) : State := s.setI (s.I + BitVec.ofNat 16 (x.val + 1))

/-- FX55's effect once its addresses are in range (R134). -/
def storeRegs (x : RegIdx) (s : State) : State :=
  ((s.setMem (Memory.writeBytes s.mem s.I.toNat (s.regsUpTo x))).indexPast x).advance

/-- FX55 (R134). -/
def execLdMemVx (x : RegIdx) (s : State) : Host.Outcome State Fault Refusal :=
  accessAtI (x.val + 1) (storeRegs x) s

/-- FX65's effect once its addresses are in range (R135). -/
def fillRegs (x : RegIdx) (s : State) : State :=
  ((s.setRegs (loadRegs s.mem s.I.toNat s.v (x.val + 1))).indexPast x).advance

/-- FX65 (R135). -/
def execLdVxMem (x : RegIdx) (s : State) : Host.Outcome State Fault Refusal :=
  accessAtI (x.val + 1) (fillRegs x) s

end Sys2Proof.Machine
end

