-- ==== Sys2Proof/Machine/NoOp.lean ====
section
/-! DEFINITION. SYS and every other unrecognized word: the no-op of 40_execution_cycle.md R85. -/

namespace Sys2Proof.Machine

/-- 0NNN: the fields are ignored, only `pc` advances (R85). -/
def execSys (_nnn : Addr12) (s : State) : Host.Outcome State Fault Refusal := .next s.advance

/-- Every other unrecognized word: the same no-op (R85, 30_encoding.md R69). -/
def execUnrecognized (_w : Word) (s : State) : Host.Outcome State Fault Refusal := .next s.advance

end Sys2Proof.Machine
end

