-- ==== Sys2Proof/Machine/Raster.lean ====
section
/-! DEFINITION. The display raster engine: clear and sprite draw (44_display.md R140 to R145). -/

namespace Sys2Proof.Machine

/-- 00E0: every pixel off, redraw pending (R141). -/
def execCls (s : State) : Host.Outcome State Fault Refusal := .next (s.present blankDisplay).advance

/-- A draw in progress: the display so far, and whether a pixel has gone from on to off. -/
structure Drawing where
  disp : Display
  collision : Bool
  deriving DecidableEq, Repr

/-- A set sprite bit: toggle the pixel, and note a collision when it was on (R143). -/
def toggle (col : Fin 64) (row : Fin 32) (g : Drawing) : Drawing where
  disp := setPixel g.disp col row (!pixel g.disp col row)
  collision := g.collision || pixel g.disp col row

/-- One sprite byte at row `row`: `k` bits remain, the next one is bit offset `b` from the left. The row stops
at the right edge (R142, R143). -/
def drawRow (bits : Byte) (x0 : Nat) (row : Fin 32) : Nat → Nat → Drawing → Drawing
  | 0, _, g => g
  | k + 1, b, g =>
    if h : x0 + b < 64 then
      drawRow bits x0 row k (b + 1) (if bits.getLsbD (7 - b) then toggle ⟨x0 + b, h⟩ row g else g)
    else g

/-- The sprite's rows: `k` remain, the next one is row `r`, whose byte is at `a + r`. The sprite stops at the
bottom edge (R143). -/
def drawRows (m : Memory) (a x0 y0 : Nat) : Nat → Nat → Drawing → Drawing
  | 0, _, g => g
  | k + 1, r, g =>
    if h : y0 + r < 32 then
      drawRows m a x0 y0 k (r + 1) (drawRow (Memory.read m (a + r)) x0 ⟨y0 + r, h⟩ 8 0 g)
    else g

/-- The whole draw, from the position (Vx mod 64, Vy mod 32) read before any write (R143). -/
def State.drawing (s : State) (x y : RegIdx) (n : Nat) : Drawing :=
  drawRows s.mem s.I.toNat ((s.reg x).toNat % 64) ((s.reg y).toNat % 32) n 0
    { disp := s.disp, collision := false }

/-- DXYN's effect once its addresses are in range: display, redraw, VF, pc (R143). -/
def drawSprite (x y : RegIdx) (n : Nat) (s : State) : State :=
  ((s.present (s.drawing x y n).disp).setReg VF (flagByte (s.drawing x y n).collision)).advance

/-- DXYN: all `n` bytes are checked, those of clipped rows too (R143). -/
def execDrw (x y : RegIdx) (n : Fin 16) (s : State) : Host.Outcome State Fault Refusal :=
  accessAtI n.val (drawSprite x y n.val) s

end Sys2Proof.Machine
end

