-- ==== Sys2Proof/Machine/TimersKeys.lean ====
section
/-! DEFINITION. The key skips, the key wait and the timer transfers (45_timers_keys.md R150 to R155). -/

namespace Sys2Proof.Machine

/-- A key skip: Vx > 0x0F faults, else skip when the key's level is `pressed` (R150, R151). -/
def skipOnKey (pressed : Bool) (x : RegIdx) (s : State) : Host.Outcome State Fault Refusal :=
  match s.keyOperand x with
  | some k => .next (s.skipIf (s.key[k] == pressed))
  | none => .next (s.raise .keyIndexOutOfRange (s.reg x).toNat)

/-- EX9E (R150). -/
def execSkp (x : RegIdx) (s : State) : Host.Outcome State Fault Refusal := skipOnKey true x s

/-- EXA1 (R151). -/
def execSknp (x : RegIdx) (s : State) : Host.Outcome State Fault Refusal := skipOnKey false x s

/-- FX07 (R152). -/
def execLdVxDt (x : RegIdx) (s : State) : Host.Outcome State Fault Refusal :=
  .next (s.setReg x s.DT).advance

/-- FX0A: the lowest pressed key in the scan range, or no change at all, so that the next Step runs it again
(R153). -/
def execLdVxK (x : RegIdx) (s : State) : Host.Outcome State Fault Refusal :=
  match s.scanKeys with
  | some k => .next (s.setReg x (BitVec.ofNat 8 k)).advance
  | none => .next s

/-- FX15 (R154). -/
def execLdDtVx (x : RegIdx) (s : State) : Host.Outcome State Fault Refusal :=
  .next (s.setDT (s.reg x)).advance

/-- FX18: `sound_active` is not written here (R155). -/
def execLdStVx (x : RegIdx) (s : State) : Host.Outcome State Fault Refusal :=
  .next (s.setST (s.reg x)).advance

end Sys2Proof.Machine
end

