-- ==== Sys2Proof/Machine/Step.lean ====
section
/-! DEFINITION. One Step (40_execution_cycle.md R80), and an opcode-table word placed where it fetches. -/

namespace Sys2Proof.Machine

/-- Step: no transition once faulted; else fetch, which may fault before decode; then decode and execute (R80 to
R83, 60_exceptions.md R161, R164). -/
def step (s : State) : Host.Outcome State Fault Refusal :=
  match s.fault with
  | some r => .fault (.faulted r)
  | none =>
    match s.fetch with
    | none => .next (s.raise .fetchOutOfRange s.pc.toNat)
    | some w => exec (decodeWord s.params.skipRRDecode w) s

/-- The state with an opcode-table word stored at `pc`, where the next Step fetches (log entry 5). -/
def State.withFetchWord (s : State) (nbits w : Nat) : State := s.placeAtPc (tableWord nbits w)

end Sys2Proof.Machine
end

