-- ==== Sys2Proof/Machine/HostOps.lean ====
section
/-! DEFINITION. The frame with its timer tick, and the host operations, each one atomic transition
(60_exceptions.md R169 to R178, 70_reset_and_hazards.md R190 to R193). -/

namespace Sys2Proof.Machine

/-! ### The frame -/

/-- A timer's decrement toward zero, never below it (60_exceptions.md R169). -/
def countDown (t : Byte) : Byte := if t = 0 then 0 else t - 1

/-- TimerTick: `sound_active` is computed from ST before its decrement (60_exceptions.md R169). -/
def timerTick (s : State) : State :=
  { s with DT := countDown s.DT, soundActive := s.ST != 0, ST := countDown s.ST }

/-- CYCLES_PER_FRAME (00_scope.md R9). -/
def cyclesPerFrame : Nat := 9

/-- The Steps that remain of a Frame, then the tick; a Step that faults ends the Frame without a tick
(60_exceptions.md R170). -/
def frameSteps : Nat → State → Host.Outcome State Fault Refusal
  | 0, s => .next (timerTick s)
  | k + 1, s =>
    match step s with
    | .next t => if t.fault = none then frameSteps k t else .next t
    | .fault r => .fault r
    | .refused r => .refused r

/-- Frame: nine Steps and a tick; no transition once faulted (60_exceptions.md R170, R178). -/
def frame (s : State) : Host.Outcome State Fault Refusal :=
  match s.fault with
  | some r => .fault (.faulted r)
  | none => frameSteps cyclesPerFrame s

/-! ### Loading and keys -/

/-- LoadGlyphs: the 80 bytes of FONT to 0x000, on any machine (70_reset_and_hazards.md R191). -/
def loadGlyphs (s : State) : State := s.setMem (Memory.writeBytes s.mem 0x000 s.params.font.toList)

/-- LoadProgram: the image to 0x200, or the fault IMAGE_TOO_LARGE with nothing copied
(70_reset_and_hazards.md R193). -/
def loadProgram (img : List Byte) (s : State) : State :=
  if 0x1000 < 0x200 + img.length then s.raise .imageTooLarge img.length
  else s.setMem (Memory.writeBytes s.mem 0x200 img)

/-- SetKey; a key outside 0..15 is refused and nothing changes (60_exceptions.md R172). -/
def hostSetKey (k : Nat) (b : Bool) (s : State) : Host.Outcome State Fault Refusal :=
  if h : k < 16 then .next (s.setKey ⟨k, h⟩ b) else .refused (.notAKey k)

/-- ClearRedraw (60_exceptions.md R175). -/
def clearRedraw (s : State) : State := { s with redraw := false }

/-- Create: a new machine with the same parameters; RAND goes on where it was (70_reset_and_hazards.md R190;
log entry 2). -/
def createAgain (s : State) : State := State.create s.params s.draws

/-! ### The interface -/

/-- The host operations of 60_exceptions.md R171. -/
inductive HostOp where
  | create
  | loadGlyphs
  | loadProgram (img : List Byte)
  | step
  | frame
  | setKey (k : Nat) (b : Bool)
  | readFramebuffer
  | readRedraw
  | clearRedraw
  | readSoundActive
  deriving DecidableEq, Repr

/-- What a host operation gives back. -/
inductive HostReply where
  | done
  | framebuffer (d : Display)
  | flag (b : Bool)
  deriving DecidableEq, Repr

/-- The state outcome of a host operation; the read operations change nothing (60_exceptions.md R171 to R178). -/
def hostOp (op : HostOp) (s : State) : Host.Outcome State Fault Refusal :=
  match op with
  | .create => .next (createAgain s)
  | .loadGlyphs => .next (loadGlyphs s)
  | .loadProgram img => .next (loadProgram img s)
  | .step => step s
  | .frame => frame s
  | .setKey k b => hostSetKey k b s
  | .readFramebuffer => .next s
  | .readRedraw => .next s
  | .clearRedraw => .next (clearRedraw s)
  | .readSoundActive => .next s

/-- What a host operation returns, from the state it is called on (60_exceptions.md R173, R174, R176). -/
def hostReply (op : HostOp) (s : State) : HostReply :=
  match op with
  | .readFramebuffer => .framebuffer s.disp
  | .readRedraw => .flag s.redraw
  | .readSoundActive => .flag s.soundActive
  | .create | .loadGlyphs | .loadProgram _ | .step | .frame | .setKey _ _ | .clearRedraw => .done

end Sys2Proof.Machine
end

