-- ==== Sys2Proof/Safety.lean ====
section
/-! DEFINITION. The terms claims are stated in: a run that has not faulted, the parts of the state one by one, what
each instruction may change, the picture a sprite draws, and the invariants. -/

namespace Sys2Proof.Safety

open Sys2Proof.Machine Sys2Proof.Config

/-- The machine has not faulted; a claim that a run completed includes this of its last state
(60_exceptions.md R161: a faulted state is never final). -/
abbrev Unfaulted (s : State) : Prop := s.fault = none

/-! ### The parts of the state -/

/-- One part of the state: each register, byte, pixel and key by itself (10_state.md R35). -/
inductive Component where
  | reg (x : RegIdx)
  | index
  | pc
  | stack
  | delay
  | sound
  | byte (a : Nat)
  | pixel (col : Fin 64) (row : Fin 32)
  | key (k : Fin 16)
  | redraw
  | soundActive
  | fault
  | params
  | draws
  deriving DecidableEq, Repr

/-- The part holds the same in both states; memory is compared by reading one byte. -/
def Component.Same (s t : State) : Component → Prop
  | .reg x => t.reg x = s.reg x
  | .index => t.I = s.I
  | .pc => t.pc = s.pc
  | .stack => t.stack = s.stack
  | .delay => t.DT = s.DT
  | .sound => t.ST = s.ST
  | .byte a => Memory.read t.mem a = Memory.read s.mem a
  | .pixel col row => Machine.pixel t.disp col row = Machine.pixel s.disp col row
  | .key k => t.key[k] = s.key[k]
  | .redraw => t.redraw = s.redraw
  | .soundActive => t.soundActive = s.soundActive
  | .fault => t.fault = s.fault
  | .params => t.params = s.params
  | .draws => t.draws = s.draws

/-- Every part not in `written` is unchanged from `s` to `t` (00_scope.md R18). -/
def ChangesOnly (written : Component → Prop) (s t : State) : Prop :=
  ∀ c, ¬ written c → c.Same s t

/-- The instruction answers a next state, and that state meets `P`. -/
def Completes (i : Instr) (s : State) (P : State → Prop) : Prop :=
  ∃ t, exec i s = .next t ∧ P t

/-- `t` is `s` with a fault raised: the record is written and nothing else (60_exceptions.md R161). -/
def Raised (code : FaultCode) (info : Nat) (s t : State) : Prop :=
  t.fault = some { code := code, pc := s.pc, info := info } ∧ ChangesOnly (· = .fault) s t

/-- `pc` moved on by `d` bytes, modulo 65536 (40_execution_cycle.md R84). -/
def PcMoved (d : Nat) (s t : State) : Prop := t.pc.toNat = (s.pc.toNat + d) % 65536

/-- Vx and VF after a result `r` and a flag `f` are written, for either VF_WRITE_ORDER (42_alu.md R111). -/
def ResultAndFlag (s t : State) (x : RegIdx) (r f : Nat) : Prop :=
  (x ≠ 15 → (t.reg x).toNat = r ∧ (t.reg 15).toNat = f) ∧
    (x = 15 → (t.reg 15).toNat = match s.params.vfWriteOrder with | .flagLast => f | .resultLast => r)

/-! ### The picture a sprite draws -/

/-- Whether DXYN's sprite has a set bit at a pixel: the position wraps, the body clips (44_display.md R142,
R143). -/
def spriteBit (s : State) (x y : RegIdx) (n : Nat) (col : Fin 64) (row : Fin 32) : Bool :=
  let x0 := (s.reg x).toNat % 64
  let y0 := (s.reg y).toNat % 32
  decide (x0 ≤ col.val ∧ col.val < x0 + 8 ∧ y0 ≤ row.val ∧ row.val < y0 + n) &&
    (Memory.read s.mem (s.I.toNat + (row.val - y0))).getLsbD (7 - (col.val - x0))

/-! ### What each instruction may change -/

/-- The parts an instruction's rule names as written, from a state (00_scope.md R18 and the rules of 41 to 45). -/
def Writes (s : State) : Instr → Component → Prop
  | .sys _, c => c = .pc
  | .unrecognized _, c => c = .pc
  | .cls, c => c = .pc ∨ c = .redraw ∨ ∃ col row, c = .pixel col row
  | .ret, c => c = .pc ∨ c = .stack
  | .jp _, c => c = .pc
  | .call _, c => c = .pc ∨ c = .stack ∨ c = .fault
  | .seImm _ _, c => c = .pc
  | .sneImm _ _, c => c = .pc
  | .seReg _ _, c => c = .pc
  | .sneReg _ _, c => c = .pc
  | .ldImm x _, c => c = .pc ∨ c = .reg x
  | .addImm x _, c => c = .pc ∨ c = .reg x
  | .ldReg x _, c => c = .pc ∨ c = .reg x
  | .orReg x _, c => c = .pc ∨ c = .reg x
  | .andReg x _, c => c = .pc ∨ c = .reg x
  | .xorReg x _, c => c = .pc ∨ c = .reg x
  | .addReg x _, c => c = .pc ∨ c = .reg x ∨ c = .reg 15
  | .subReg x _, c => c = .pc ∨ c = .reg x ∨ c = .reg 15
  | .shrReg x _, c => c = .pc ∨ c = .reg x ∨ c = .reg 15
  | .subnReg x _, c => c = .pc ∨ c = .reg x ∨ c = .reg 15
  | .shlReg x _, c => c = .pc ∨ c = .reg x ∨ c = .reg 15
  | .ldI _, c => c = .pc ∨ c = .index
  | .jpV0 _, c => c = .pc
  | .rnd x _, c => c = .pc ∨ c = .reg x ∨ c = .draws
  | .drw x y n, c => c = .pc ∨ c = .reg 15 ∨ c = .redraw ∨ c = .fault ∨
      ∃ col row, spriteBit s x y n.val col row = true ∧ c = .pixel col row
  | .skp _, c => c = .pc ∨ c = .fault
  | .sknp _, c => c = .pc ∨ c = .fault
  | .ldVxDt x, c => c = .pc ∨ c = .reg x
  | .ldVxK x, c => c = .pc ∨ c = .reg x
  | .ldDtVx _, c => c = .pc ∨ c = .delay
  | .ldStVx _, c => c = .pc ∨ c = .sound
  | .addIVx _, c => c = .pc ∨ c = .index
  | .ldFVx _, c => c = .pc ∨ c = .index
  | .ldBVx _, c => c = .pc ∨ c = .fault ∨ ∃ k < 3, c = .byte (s.I.toNat + k)
  | .ldMemVx x, c => c = .pc ∨ c = .index ∨ c = .fault ∨ ∃ k ≤ x.val, c = .byte (s.I.toNat + k)
  | .ldVxMem x, c => c = .pc ∨ c = .index ∨ c = .fault ∨ ∃ k ≤ x, c = .reg k

/-! ### Invariants -/

/-- Memory keeps its canonical form, so that equal memories are equal data. -/
abbrev MemoryCanonical (s : State) : Prop := Memory.wf s.mem

/-- The reach of `pc` and of return addresses, which is why no `pc` sum ever wraps (10_state.md R25). -/
abbrev AddressesBounded (s : State) : Prop := s.pc.toNat ≤ 0x10FE ∧ ∀ w ∈ s.stack, w.toNat ≤ 0xFFE

/-- A stack of finite capacity holds at most that many entries (10_state.md R27). -/
abbrev StackWithinCapacity (s : State) : Prop := ∀ n ∈ s.params.stackCapacity, s.stack.length ≤ n

/-- The state less what no instruction reads: ST, `redraw` and `sound_active` (10_state.md R29, R33). -/
def withoutUnread (s : State) : State := { s with ST := 0, redraw := false, soundActive := false }

end Sys2Proof.Safety
end

