-- ==== Sys2Proof/Certificates/Slice0/Obligations.lean ====
section
/-! DEFINITION. The statements for the provers. Each is about every state, reachable or not, unless it names an
invariant of Safety.lean as a premise. -/

open Sys2Proof Sys2Proof.Machine Sys2Proof.Safety Sys2Proof.Config

/-- Under either SKIP_RR_DECODE, the words 0123, 00E0, 00EE, 1234, 2345, 342A, 5AB0, 6005, 7003, 8AB4, 8ABE, 9AB0,
A300, B300, C30F, D125, E19E, E1A1, F20A, F21E, F255 and F265 decode to the instructions of their rows with the
fields x, y, kk, n and nnn in their places. The hex values are the spec's own assignment (30_encoding.md R63,
decision D12; log entry 8). (Derived from 30_encoding.md section 3.) -/
def Obligations.SpecWordsDecodeToTheirInstructions : Prop :=
  ∀ sk : SkipRRDecode,
    decodeWord sk 0x0123 = .sys 0x123 ∧ decodeWord sk 0x00E0 = .cls ∧ decodeWord sk 0x00EE = .ret ∧
    decodeWord sk 0x1234 = .jp 0x234 ∧ decodeWord sk 0x2345 = .call 0x345 ∧
    decodeWord sk 0x342A = .seImm 4 0x2A ∧ decodeWord sk 0x5AB0 = .seReg 0xA 0xB ∧
    decodeWord sk 0x6005 = .ldImm 0 5 ∧ decodeWord sk 0x7003 = .addImm 0 3 ∧
    decodeWord sk 0x8AB4 = .addReg 0xA 0xB ∧ decodeWord sk 0x8ABE = .shlReg 0xA 0xB ∧
    decodeWord sk 0x9AB0 = .sneReg 0xA 0xB ∧ decodeWord sk 0xA300 = .ldI 0x300 ∧
    decodeWord sk 0xB300 = .jpV0 0x300 ∧ decodeWord sk 0xC30F = .rnd 3 0x0F ∧
    decodeWord sk 0xD125 = .drw 1 2 5 ∧ decodeWord sk 0xE19E = .skp 1 ∧ decodeWord sk 0xE1A1 = .sknp 1 ∧
    decodeWord sk 0xF20A = .ldVxK 2 ∧ decodeWord sk 0xF21E = .addIVx 2 ∧
    decodeWord sk 0xF255 = .ldMemVx 2 ∧ decodeWord sk 0xF265 = .ldVxMem 2

/-- For either SKIP_RR_DECODE and every well-formed instruction, with every operand at every value its field admits,
decodeWord of encode is the instruction. (Derived from 30_encoding.md sections 1 to 3.) -/
def Obligations.DecodeAfterEncodeIsIdentity : Prop :=
  ∀ (sk : SkipRRDecode) (i : Instr), i.wellFormed sk = true → decodeWord sk (encode i) = i

/-- With SKIP_RR_DECODE = strict every one of the 65536 words is encode of the instruction it decodes to, so no bit
of a word is dropped. (Derived from 30_encoding.md sections 2 and 3.) -/
def Obligations.EncodeAfterDecodeIsIdentityWhenStrict : Prop :=
  ∀ w : Word, encode (decodeWord .strict w) = w

/-- For either SKIP_RR_DECODE and every word, the decoded instruction is well formed: SYS never carries 0E0 or 0EE,
and the unrecognized constructor carries only words of the unrecognized space. (Derived from 30_encoding.md
section 2.) -/
def Obligations.DecodedInstructionIsWellFormed : Prop :=
  ∀ (sk : SkipRRDecode) (w : Word), (decodeWord sk w).wellFormed sk = true

/-- For each of the 35 rows: a word w with w and mask = match decodes to the row's instruction, whose operands are
the fields of w (x = w / 256 mod 16, y = w / 16 mod 16, n = w mod 16, kk = w mod 256, nnn = w mod 4096); for SYS
the words 00E0 and 00EE are excepted, and under ignoreLowNibble the rows 5XY0 and 9XY0 have the mask F000. The
hex values are the spec's own assignment (decision D12; log entry 8). (Derived from 30_encoding.md section 3.) -/
def Obligations.OpcodeMapRowsDecode : Prop :=
  ∀ (sk : SkipRRDecode) (w : Word) (x y n : Fin 16) (kk : Byte) (nnn : Addr12),
    x.val = w.toNat / 256 % 16 → y.val = w.toNat / 16 % 16 → n.val = w.toNat % 16 →
    kk.toNat = w.toNat % 256 → nnn.toNat = w.toNat % 4096 →
    (w &&& 0xF000 = 0x0000 → w ≠ 0x00E0 → w ≠ 0x00EE → decodeWord sk w = .sys nnn) ∧
    (w = 0x00E0 → decodeWord sk w = .cls) ∧
    (w = 0x00EE → decodeWord sk w = .ret) ∧
    (w &&& 0xF000 = 0x1000 → decodeWord sk w = .jp nnn) ∧
    (w &&& 0xF000 = 0x2000 → decodeWord sk w = .call nnn) ∧
    (w &&& 0xF000 = 0x3000 → decodeWord sk w = .seImm x kk) ∧
    (w &&& 0xF000 = 0x4000 → decodeWord sk w = .sneImm x kk) ∧
    (w &&& 0xF00F = 0x5000 → decodeWord sk w = .seReg x y) ∧
    (w &&& 0xF000 = 0x5000 → decodeWord .ignoreLowNibble w = .seReg x y) ∧
    (w &&& 0xF000 = 0x6000 → decodeWord sk w = .ldImm x kk) ∧
    (w &&& 0xF000 = 0x7000 → decodeWord sk w = .addImm x kk) ∧
    (w &&& 0xF00F = 0x8000 → decodeWord sk w = .ldReg x y) ∧
    (w &&& 0xF00F = 0x8001 → decodeWord sk w = .orReg x y) ∧
    (w &&& 0xF00F = 0x8002 → decodeWord sk w = .andReg x y) ∧
    (w &&& 0xF00F = 0x8003 → decodeWord sk w = .xorReg x y) ∧
    (w &&& 0xF00F = 0x8004 → decodeWord sk w = .addReg x y) ∧
    (w &&& 0xF00F = 0x8005 → decodeWord sk w = .subReg x y) ∧
    (w &&& 0xF00F = 0x8006 → decodeWord sk w = .shrReg x y) ∧
    (w &&& 0xF00F = 0x8007 → decodeWord sk w = .subnReg x y) ∧
    (w &&& 0xF00F = 0x800E → decodeWord sk w = .shlReg x y) ∧
    (w &&& 0xF00F = 0x9000 → decodeWord sk w = .sneReg x y) ∧
    (w &&& 0xF000 = 0x9000 → decodeWord .ignoreLowNibble w = .sneReg x y) ∧
    (w &&& 0xF000 = 0xA000 → decodeWord sk w = .ldI nnn) ∧
    (w &&& 0xF000 = 0xB000 → decodeWord sk w = .jpV0 nnn) ∧
    (w &&& 0xF000 = 0xC000 → decodeWord sk w = .rnd x kk) ∧
    (w &&& 0xF000 = 0xD000 → decodeWord sk w = .drw x y n) ∧
    (w &&& 0xF0FF = 0xE09E → decodeWord sk w = .skp x) ∧
    (w &&& 0xF0FF = 0xE0A1 → decodeWord sk w = .sknp x) ∧
    (w &&& 0xF0FF = 0xF007 → decodeWord sk w = .ldVxDt x) ∧
    (w &&& 0xF0FF = 0xF00A → decodeWord sk w = .ldVxK x) ∧
    (w &&& 0xF0FF = 0xF015 → decodeWord sk w = .ldDtVx x) ∧
    (w &&& 0xF0FF = 0xF018 → decodeWord sk w = .ldStVx x) ∧
    (w &&& 0xF0FF = 0xF01E → decodeWord sk w = .addIVx x) ∧
    (w &&& 0xF0FF = 0xF029 → decodeWord sk w = .ldFVx x) ∧
    (w &&& 0xF0FF = 0xF033 → decodeWord sk w = .ldBVx x) ∧
    (w &&& 0xF0FF = 0xF055 → decodeWord sk w = .ldMemVx x) ∧
    (w &&& 0xF0FF = 0xF065 → decodeWord sk w = .ldVxMem x)

/-- A word decodes to SYS if and only if its high nibble is 0 and it is neither 00E0 nor 00EE, and to the
unrecognized no-op carrying itself if and only if it is 5XYn or 9XYn with n not 0 under strict, 8XYn with n one
of 8, 9, A, B, C, D, F, EXkk with kk neither 9E nor A1, or FXkk with kk none of the nine. The spec derives this
list (R69) and its parameter SKIP_RR_DECODE is decision D11. (Derived from 30_encoding.md section 2.) -/
def Obligations.UnrecognizedSpaceIsExact : Prop :=
  ∀ (sk : SkipRRDecode) (w : Word),
    ((∃ nnn, decodeWord sk w = .sys nnn) ↔ w.toNat < 0x1000 ∧ w ≠ 0x00E0 ∧ w ≠ 0x00EE) ∧
    (decodeWord sk w = .unrecognized w ↔
      ((w.toNat / 4096 = 5 ∨ w.toNat / 4096 = 9) ∧ w.toNat % 16 ≠ 0 ∧ sk = .strict) ∨
      (w.toNat / 4096 = 8 ∧ w.toNat % 16 ∈ [0x8, 0x9, 0xA, 0xB, 0xC, 0xD, 0xF]) ∨
      (w.toNat / 4096 = 0xE ∧ w.toNat % 256 ∉ [0x9E, 0xA1]) ∨
      (w.toNat / 4096 = 0xF ∧ w.toNat % 256 ∉ [0x07, 0x0A, 0x15, 0x18, 0x1E, 0x29, 0x33, 0x55, 0x65]))

/-- Whenever both bytes lie in memory (pc at most FFE), odd pc included, fetch answers the word whose value is the
byte at pc times 256 plus the byte at pc + 1. (Formalises R42.) -/
def Obligations.FetchIsBigEndian : Prop :=
  ∀ s : State, s.pc.toNat ≤ 0xFFE → ∃ w, s.fetch = some w ∧
    w.toNat = (Memory.read s.mem s.pc.toNat).toNat * 256 + (Memory.read s.mem (s.pc.toNat + 1)).toNat

/-- For every unfaulted state whose pc is at most FFE, if the bytes at pc and pc + 1 decode to the instruction i,
then step is exec of i on that very state: nothing is done before or after it. (Derived from
40_execution_cycle.md section 1.) -/
def Obligations.StepRunsTheDecodedInstruction : Prop :=
  ∀ (s : State) (i : Instr), Unfaulted s → s.pc.toNat ≤ 0xFFE →
    decode s.params.skipRRDecode [Memory.read s.mem s.pc.toNat, Memory.read s.mem (s.pc.toNat + 1)]
      = .ok (i, []) → step s = exec i s

/-- For every unfaulted state with pc above FFE, step answers the state with the fault record (1, pc, pc) and every
other part unchanged. The fault is the spec's decision D4. (Derived from 40_execution_cycle.md section 1;
92_eei_decisions.md D4.) -/
def Obligations.FetchPastTheEndFaults : Prop :=
  ∀ s : State, Unfaulted s → 0xFFE < s.pc.toNat →
    ∃ t, step s = .next t ∧ Raised .fetchOutOfRange s.pc.toNat s t

/-- For every state whose fault field holds a record, step and frame both stop with that record: there is no next
state. The terminal fault is the spec's decision D18, and its form as an outcome is log entry 3. (Derived from
60_exceptions.md sections 1 and 4; 92_eei_decisions.md D18.) -/
def Obligations.FaultedMachineHasNoTransition : Prop :=
  ∀ (s : State) (r : FaultRecord), s.fault = some r →
    step s = .fault (.faulted r) ∧ frame s = .fault (.faulted r)

/-- No word and no state stops an unfaulted machine: step always answers a next state (which may record a fault),
and so does exec of every instruction on every state. (Derived from 30_encoding.md section 2; 60_exceptions.md
sections 1 and 2.) -/
def Obligations.EveryStepOfAnUnfaultedMachineCompletes : Prop :=
  (∀ (i : Instr) (s : State), ∃ t, exec i s = .next t) ∧ ∀ s : State, Unfaulted s → ∃ t, step s = .next t

/-- If a Step answers a state that holds a fault record, that state is the one before with only the fault field
replaced, the record's pc is the pc of the instruction that faulted, and its code is one of the four a Step can
raise. The fault form is the spec's decision D18. (Derived from 60_exceptions.md section 1; 92_eei_decisions.md
D18.) -/
def Obligations.FaultingStepWritesOnlyTheRecord : Prop :=
  ∀ (s t : State) (r : FaultRecord), step s = .next t → t.fault = some r →
    t = { s with fault := some r } ∧ r.pc = s.pc ∧ r.code ≠ .imageTooLarge

/-- exec of SYS with any nnn and of an unrecognized word with any bits completes with pc + 2 modulo 65536 and every
other part unchanged. The advance is the spec's decision D13. (Derived from 40_execution_cycle.md section 3;
92_eei_decisions.md D13.) -/
def Obligations.NoOpWordsOnlyAdvance : Prop :=
  ∀ (s : State) (nnn : Addr12) (w : Word),
    Completes (.sys nnn) s (fun t => PcMoved 2 s t ∧ ChangesOnly (· = .pc) s t) ∧
    Completes (.unrecognized w) s (fun t => PcMoved 2 s t ∧ ChangesOnly (· = .pc) s t)

/-- With a stack that ends in u, RET leaves the rest of the stack and pc = u + 2 modulo 65536; with an empty stack
it leaves the stack empty and pc + 2; nothing else changes and it never faults. (Formalises R91.) -/
def Obligations.ReturnResumesAfterTheCall : Prop :=
  (∀ (s : State) (rest : List Word) (u : Word), s.stack = rest ++ [u] →
    Completes .ret s (fun t => t.stack = rest ∧ t.pc.toNat = (u.toNat + 2) % 65536 ∧
      ChangesOnly (fun c => c = .pc ∨ c = .stack) s t)) ∧
  (∀ s : State, s.stack = [] → Completes .ret s (fun t => PcMoved 2 s t ∧ ChangesOnly (· = .pc) s t))

/-- exec of JP with any nnn, odd ones included, completes with pc = nnn and every other part unchanged; from an
unfaulted state a jump to FFF is followed by a Step that raises FETCH_OUT_OF_RANGE. (Formalises R92.) -/
def Obligations.JumpGoesToItsTarget : Prop :=
  ∀ (s : State) (nnn : Addr12),
    Completes (.jp nnn) s (fun t => t.pc.toNat = nnn.toNat ∧ ChangesOnly (· = .pc) s t ∧
      (nnn = 0xFFF → Unfaulted s → ∃ u, step t = .next u ∧ Raised .fetchOutOfRange 0xFFF t u))

/-- Unless STACK_CAPACITY is finite and equals the stack's length, CALL completes with pc pushed last, pc = nnn and
nothing else changed; when it does equal it, CALL raises STACK_OVERFLOW with the depth and changes nothing else.
(Formalises R93.) -/
def Obligations.CallPushesItsOwnAddress : Prop :=
  ∀ (s : State) (nnn : Addr12),
    (s.params.stackCapacity ≠ some s.stack.length →
      Completes (.call nnn) s (fun t => t.stack = s.stack ++ [s.pc] ∧ t.pc.toNat = nnn.toNat ∧
        ChangesOnly (fun c => c = .pc ∨ c = .stack) s t)) ∧
    (s.params.stackCapacity = some s.stack.length →
      Completes (.call nnn) s (Raised .stackOverflow s.stack.length s))

/-- 3XNN on Vx = kk, 4XNN on Vx not kk, 5XY0 on Vx = Vy, 9XY0 on Vx not Vy, and for Vx at most 15 EX9E on key Vx
pressed and EXA1 on key Vx released: pc + 4 or pc + 2 modulo 65536, and no register, flag or other part changes.
That 5XY0 and 9XY0 are the skips of their rows carries the spec's decision D11, and the bound of 15 on Vx its
decision D7 (log entry 8). (Derived from R94; R95; R96; R97; R98; R150; R151; 92_eei_decisions.md D7;
92_eei_decisions.md D11; notes/assumptions/8.md.) -/
def Obligations.SkipsAdvanceByFourOrTwo : Prop :=
  ∀ (s : State) (x y : RegIdx) (kk : Byte),
    Completes (.seImm x kk) s (fun t =>
      PcMoved (if s.reg x = kk then 4 else 2) s t ∧ ChangesOnly (· = .pc) s t) ∧
    Completes (.sneImm x kk) s (fun t =>
      PcMoved (if s.reg x ≠ kk then 4 else 2) s t ∧ ChangesOnly (· = .pc) s t) ∧
    Completes (.seReg x y) s (fun t =>
      PcMoved (if s.reg x = s.reg y then 4 else 2) s t ∧ ChangesOnly (· = .pc) s t) ∧
    Completes (.sneReg x y) s (fun t =>
      PcMoved (if s.reg x ≠ s.reg y then 4 else 2) s t ∧ ChangesOnly (· = .pc) s t) ∧
    (∀ k : Fin 16, k.val = (s.reg x).toNat →
      Completes (.skp x) s (fun t =>
        PcMoved (if s.key[k] = true then 4 else 2) s t ∧ ChangesOnly (· = .pc) s t) ∧
      Completes (.sknp x) s (fun t =>
        PcMoved (if s.key[k] = false then 4 else 2) s t ∧ ChangesOnly (· = .pc) s t))

/-- For every state and x with Vx above 15, both key skips answer the state with the fault record (3, pc, Vx) and
every other part unchanged. The fault is the spec's decision D7. (Derived from 45_timers_keys.md section 1;
92_eei_decisions.md D7.) -/
def Obligations.KeyIndexAboveFifteenFaults : Prop :=
  ∀ (s : State) (x : RegIdx), 15 < (s.reg x).toNat →
    Completes (.skp x) s (Raised .keyIndexOutOfRange (s.reg x).toNat s) ∧
    Completes (.sknp x) s (Raised .keyIndexOutOfRange (s.reg x).toNat s)

/-- exec of BNNN completes with pc equal to the exact sum of nnn and V0 and every other part unchanged. That the sum
is not masked is tied to the spec's decision D3. (Derived from 41_control_flow.md section 4; 92_eei_decisions.md
D3.) -/
def Obligations.IndexedJumpAddsV0 : Prop :=
  ∀ (s : State) (nnn : Addr12),
    Completes (.jpV0 nnn) s (fun t =>
      t.pc.toNat = nnn.toNat + (s.reg 0).toNat ∧ ChangesOnly (· = .pc) s t)

/-- From an unfaulted state to an unfaulted one: 1NNN, 2NNN and BNNN leave their target, 00EE the popped address
plus 2 (or pc + 2), the six skips pc + 4 or pc + 2 by their condition, FX0A pc + 2 when a key in its scan range
is pressed and pc when none is, and every other instruction, the unrecognized words included, pc + 2, all modulo
65536. (Formalises R84.) -/
def Obligations.PcConvention : Prop :=
  ∀ (i : Instr) (s t : State), Unfaulted s → exec i s = .next t → Unfaulted t →
    match i with
    | .jp nnn => t.pc.toNat = nnn.toNat
    | .call nnn => t.pc.toNat = nnn.toNat
    | .jpV0 nnn => t.pc.toNat = (nnn.toNat + (s.reg 0).toNat) % 65536
    | .ret => (s.stack = [] → PcMoved 2 s t) ∧
        ∀ rest u, s.stack = rest ++ [u] → t.pc.toNat = (u.toNat + 2) % 65536
    | .seImm x kk => PcMoved (if s.reg x = kk then 4 else 2) s t
    | .sneImm x kk => PcMoved (if s.reg x ≠ kk then 4 else 2) s t
    | .seReg x y => PcMoved (if s.reg x = s.reg y then 4 else 2) s t
    | .sneReg x y => PcMoved (if s.reg x ≠ s.reg y then 4 else 2) s t
    | .skp x => ∀ k : Fin 16, k.val = (s.reg x).toNat → PcMoved (if s.key[k] = true then 4 else 2) s t
    | .sknp x => ∀ k : Fin 16, k.val = (s.reg x).toNat → PcMoved (if s.key[k] = false then 4 else 2) s t
    | .ldVxK _ =>
        ((∃ k : Fin 16, k.val ≤ keywaitLast s.params.keywaitLastKey ∧ s.key[k] = true) → PcMoved 2 s t) ∧
        ((∀ k : Fin 16, k.val ≤ keywaitLast s.params.keywaitLastKey → s.key[k] = false) → t.pc = s.pc)
    | _ => PcMoved 2 s t

/-- exec of 6XNN leaves Vx = kk, and of 7XNN leaves Vx = (Vx + kk) mod 256; pc + 2, and no other part changes, VF
included when x is not F. (Formalises R112, R113.) -/
def Obligations.ImmediateLoadAndAdd : Prop :=
  ∀ (s : State) (x : RegIdx) (kk : Byte),
    Completes (.ldImm x kk) s (fun t => t.reg x = kk ∧
      PcMoved 2 s t ∧ ChangesOnly (fun c => c = .pc ∨ c = .reg x) s t) ∧
    Completes (.addImm x kk) s (fun t => (t.reg x).toNat = ((s.reg x).toNat + kk.toNat) % 256 ∧
      PcMoved 2 s t ∧ ChangesOnly (fun c => c = .pc ∨ c = .reg x) s t)

/-- exec of 8XY0 leaves Vx = Vy, and of 8XY1, 8XY2 and 8XY3 leaves each bit of Vx the or, and, exclusive or of the
bits of Vx and Vy; pc + 2, and no other part changes. (Formalises R114, R115, R116, R117.) -/
def Obligations.MoveAndBitwiseOperations : Prop :=
  ∀ (s : State) (x y : RegIdx),
    Completes (.ldReg x y) s (fun t => t.reg x = s.reg y ∧
      PcMoved 2 s t ∧ ChangesOnly (fun c => c = .pc ∨ c = .reg x) s t) ∧
    Completes (.orReg x y) s (fun t =>
      (∀ b, (t.reg x).getLsbD b = ((s.reg x).getLsbD b || (s.reg y).getLsbD b)) ∧
      PcMoved 2 s t ∧ ChangesOnly (fun c => c = .pc ∨ c = .reg x) s t) ∧
    Completes (.andReg x y) s (fun t =>
      (∀ b, (t.reg x).getLsbD b = ((s.reg x).getLsbD b && (s.reg y).getLsbD b)) ∧
      PcMoved 2 s t ∧ ChangesOnly (fun c => c = .pc ∨ c = .reg x) s t) ∧
    Completes (.xorReg x y) s (fun t =>
      (∀ b, (t.reg x).getLsbD b = ((s.reg x).getLsbD b ^^ (s.reg y).getLsbD b)) ∧
      PcMoved 2 s t ∧ ChangesOnly (fun c => c = .pc ∨ c = .reg x) s t)

/-- Vx receives (Vx + Vy) mod 256 and VF receives 1 if the exact sum is above 255, else 0. For x = F the final VF is
the flag under flagLast and the result under resultLast, both values of the parameter being covered; pc + 2, and no
other part changes. Operands are those before the instruction. The clause for x = F is R111's, whose parameter and
operand order are the spec's own decisions D9 and D10 (log entries 1 and 8). (Derived from R118; R111;
92_eei_decisions.md D9; 92_eei_decisions.md D10; notes/assumptions/1.md; notes/assumptions/8.md.) -/
def Obligations.AddWithCarry : Prop :=
  ∀ (s : State) (x y : RegIdx), Completes (.addReg x y) s (fun t =>
    ResultAndFlag s t x (((s.reg x).toNat + (s.reg y).toNat) % 256) (if 255 < (s.reg x).toNat + (s.reg y).toNat then 1 else 0) ∧
    PcMoved 2 s t ∧ ChangesOnly (fun c => c = .pc ∨ c = .reg x ∨ c = .reg 15) s t)

/-- Vx receives (Vx - Vy) mod 256 and VF receives 1 if Vx is at least Vy, else 0. For x = F the final VF is the flag
under flagLast and the result under resultLast, both values of the parameter being covered; pc + 2, and no other
part changes. Operands are those before the instruction. The clause for x = F is R111's, whose parameter and operand
order are the spec's own decisions D9 and D10 (log entries 1 and 8). (Derived from R119; R111; 92_eei_decisions.md
D9; 92_eei_decisions.md D10; notes/assumptions/1.md; notes/assumptions/8.md.) -/
def Obligations.SubtractSetsNoBorrow : Prop :=
  ∀ (s : State) (x y : RegIdx), Completes (.subReg x y) s (fun t =>
    ResultAndFlag s t x (((256 + (s.reg x).toNat) - (s.reg y).toNat) % 256) (if (s.reg y).toNat ≤ (s.reg x).toNat then 1 else 0) ∧
    PcMoved 2 s t ∧ ChangesOnly (fun c => c = .pc ∨ c = .reg x ∨ c = .reg 15) s t)

/-- Vx receives Vy / 2 and VF receives the least significant bit of Vy; Vy is unchanged unless it is Vx or VF. For x
= F the final VF is the flag under flagLast and the result under resultLast, both values of the parameter being
covered; pc + 2, and no other part changes. Operands are those before the instruction. The clause for x = F is
R111's, whose parameter and operand order are the spec's own decisions D9 and D10 (log entries 1 and 8). (Derived
from R120; R111; 92_eei_decisions.md D9; 92_eei_decisions.md D10; notes/assumptions/1.md; notes/assumptions/8.md.) -/
def Obligations.ShiftRightTakesVy : Prop :=
  ∀ (s : State) (x y : RegIdx), Completes (.shrReg x y) s (fun t =>
    ResultAndFlag s t x ((s.reg y).toNat / 2) ((s.reg y).toNat % 2) ∧
    PcMoved 2 s t ∧ ChangesOnly (fun c => c = .pc ∨ c = .reg x ∨ c = .reg 15) s t)

/-- Vx receives (Vy - Vx) mod 256 and VF receives 1 if Vy is at least Vx, else 0. For x = F the final VF is the flag
under flagLast and the result under resultLast, both values of the parameter being covered; pc + 2, and no other
part changes. Operands are those before the instruction. The clause for x = F is R111's, whose parameter and operand
order are the spec's own decisions D9 and D10 (log entries 1 and 8). (Derived from R121; R111; 92_eei_decisions.md
D9; 92_eei_decisions.md D10; notes/assumptions/1.md; notes/assumptions/8.md.) -/
def Obligations.ReverseSubtractSetsNoBorrow : Prop :=
  ∀ (s : State) (x y : RegIdx), Completes (.subnReg x y) s (fun t =>
    ResultAndFlag s t x (((256 + (s.reg y).toNat) - (s.reg x).toNat) % 256) (if (s.reg x).toNat ≤ (s.reg y).toNat then 1 else 0) ∧
    PcMoved 2 s t ∧ ChangesOnly (fun c => c = .pc ∨ c = .reg x ∨ c = .reg 15) s t)

/-- Vx receives Vy * 2 mod 256 and VF receives the most significant bit of Vy; Vy is unchanged unless it is Vx or
VF. For x = F the final VF is the flag under flagLast and the result under resultLast, both values of the parameter
being covered; pc + 2, and no other part changes. Operands are those before the instruction. The clause for x = F is
R111's, whose parameter and operand order are the spec's own decisions D9 and D10 (log entries 1 and 8). (Derived
from R122; R111; 92_eei_decisions.md D9; 92_eei_decisions.md D10; notes/assumptions/1.md; notes/assumptions/8.md.) -/
def Obligations.ShiftLeftTakesVy : Prop :=
  ∀ (s : State) (x y : RegIdx), Completes (.shlReg x y) s (fun t =>
    ResultAndFlag s t x ((s.reg y).toNat * 2 % 256) ((s.reg y).toNat / 128) ∧
    PcMoved 2 s t ∧ ChangesOnly (fun c => c = .pc ∨ c = .reg x ∨ c = .reg 15) s t)

/-- exec of CXNN completes with Vx = the next byte of RAND and kk, one draw taken (with kk = 0 too), pc + 2 and
nothing else changed; and for every byte d that a draw could be, the instruction's effect with d leaves Vx = d
and kk, so every bit outside kk is 0. RAND is the model's free value (log entry 2; the spec's decision D14) and
the field draws is the model's own. (Derived from 42_alu.md section 5; 60_exceptions.md section 5;
92_eei_decisions.md D14.) -/
def Obligations.RandomByteIsMaskedFreshDraw : Prop :=
  ∀ (s : State) (x : RegIdx) (kk : Byte),
    Completes (.rnd x kk) s (fun t => t = randomInto (Config.rand s.draws) x kk s ∧ t.draws = s.draws + 1) ∧
    ∀ d : Byte, (∀ b, ((randomInto d x kk s).reg x).getLsbD b = (d.getLsbD b && kk.getLsbD b)) ∧
      PcMoved 2 s (randomInto d x kk s) ∧
      ChangesOnly (fun c => c = .pc ∨ c = .reg x ∨ c = .draws) s (randomInto d x kk s)

/-- If an instruction leaves VF with another value, then it is 8XY4, 8XY5, 8XY6, 8XY7, 8XYE or DXYN, or it writes Vx
with x = F: 6XNN, 7XNN, 8XY0 to 8XY3, CXNN, FX07, FX0A or FX65. (Derived from 10_state.md section 1.) -/
def Obligations.VFChangesOnlyByFlagInstructionsOrAsDestination : Prop :=
  ∀ (i : Instr) (s t : State), exec i s = .next t → t.reg 15 ≠ s.reg 15 →
    match i with
    | .addReg _ _ | .subReg _ _ | .shrReg _ _ | .subnReg _ _ | .shlReg _ _ | .drw _ _ _ => True
    | .ldImm x _ | .addImm x _ | .ldReg x _ | .orReg x _ | .andReg x _ | .xorReg x _ => x = 15
    | .rnd x _ | .ldVxDt x | .ldVxK x | .ldVxMem x => x = 15
    | _ => False

/-- exec of ANNN leaves I = nnn and of FX29 leaves I = 5 * Vx, not masked to a nibble; pc + 2, and no other part
changes. (Formalises R130, R132.) -/
def Obligations.IndexLoads : Prop :=
  ∀ (s : State) (x : RegIdx) (nnn : Addr12),
    Completes (.ldI nnn) s (fun t => t.I.toNat = nnn.toNat ∧
      PcMoved 2 s t ∧ ChangesOnly (fun c => c = .pc ∨ c = .index) s t) ∧
    Completes (.ldFVx x) s (fun t => t.I.toNat = (s.reg x).toNat * 5 ∧
      PcMoved 2 s t ∧ ChangesOnly (fun c => c = .pc ∨ c = .index) s t)

/-- exec of FX1E leaves I = (I + Vx) mod 65536, not masked to 12 bits; pc + 2, and no other part changes, VF
included. That I is not masked is the spec's decision D6. (Derived from 43_index_memory.md section 1;
92_eei_decisions.md D6.) -/
def Obligations.IndexAddWrapsAtSixteenBits : Prop :=
  ∀ (s : State) (x : RegIdx),
    Completes (.addIVx x) s (fun t => t.I.toNat = (s.I.toNat + (s.reg x).toNat) % 65536 ∧
      PcMoved 2 s t ∧ ChangesOnly (fun c => c = .pc ∨ c = .index) s t)

/-- With canonical memory and I + 2 at most FFF, FX33 completes with the three digits at the three addresses, I
unchanged, pc + 2, and every other byte and part unchanged. The range condition is the spec's decision D3.
(Derived from 43_index_memory.md section 2; 92_eei_decisions.md D3.) -/
def Obligations.DecimalDigitsAreStored : Prop :=
  ∀ (s : State) (x : RegIdx), MemoryCanonical s → s.I.toNat + 2 ≤ 0xFFF →
    Completes (.ldBVx x) s (fun t =>
      (Memory.read t.mem s.I.toNat).toNat = (s.reg x).toNat / 100 ∧
      (Memory.read t.mem (s.I.toNat + 1)).toNat = (s.reg x).toNat / 10 % 10 ∧
      (Memory.read t.mem (s.I.toNat + 2)).toNat = (s.reg x).toNat % 10 ∧
      PcMoved 2 s t ∧
      ChangesOnly (fun c => c = .pc ∨ c = .byte s.I.toNat ∨ c = .byte (s.I.toNat + 1) ∨
        c = .byte (s.I.toNat + 2)) s t)

/-- With canonical memory and I + x at most FFF, FX55 completes with V[k] at I + k for every k up to x, I = I + x +
1, pc + 2, no register changed and every other byte unchanged. The range condition is the spec's decision D3.
(Derived from 43_index_memory.md section 2; 92_eei_decisions.md D3.) -/
def Obligations.StoreRegistersWritesVToMemory : Prop :=
  ∀ (s : State) (x : RegIdx), MemoryCanonical s → s.I.toNat + x.val ≤ 0xFFF →
    Completes (.ldMemVx x) s (fun t =>
      (∀ k : RegIdx, k ≤ x → Memory.read t.mem (s.I.toNat + k.val) = s.reg k) ∧
      t.I.toNat = s.I.toNat + x.val + 1 ∧ PcMoved 2 s t ∧
      ChangesOnly (fun c => c = .pc ∨ c = .index ∨ ∃ k ≤ x.val, c = .byte (s.I.toNat + k)) s t)

/-- With I + x at most FFF, FX65 completes with V[k] the byte at I + k for every k up to x, the registers above x
unchanged, I = I + x + 1, pc + 2, and memory and every other part unchanged. The range condition is the spec's
decision D3. (Derived from 43_index_memory.md section 2; 92_eei_decisions.md D3.) -/
def Obligations.LoadRegistersReadsVFromMemory : Prop :=
  ∀ (s : State) (x : RegIdx), s.I.toNat + x.val ≤ 0xFFF →
    Completes (.ldVxMem x) s (fun t =>
      (∀ k : RegIdx, k ≤ x → t.reg k = Memory.read s.mem (s.I.toNat + k.val)) ∧
      t.I.toNat = s.I.toNat + x.val + 1 ∧ PcMoved 2 s t ∧
      ChangesOnly (fun c => c = .pc ∨ c = .index ∨ ∃ k ≤ x, c = .reg k) s t)

/-- Whenever some byte I + k the instruction would access lies above FFF (for DXYN with n > 0, rows that clipping
would skip included), the instruction answers the state with the fault record (2, pc, I) and every other part
unchanged. The fault is the spec's decisions D3 and D16. (Derived from 20_memory.md section 4;
92_eei_decisions.md D3; 92_eei_decisions.md D16.) -/
def Obligations.OutOfRangeAccessFaultsBeforeAnyWrite : Prop :=
  ∀ (s : State) (x y : RegIdx) (n : Fin 16),
    (0xFFF < s.I.toNat + 2 → Completes (.ldBVx x) s (Raised .memOutOfRange s.I.toNat s)) ∧
    (0xFFF < s.I.toNat + x.val → Completes (.ldMemVx x) s (Raised .memOutOfRange s.I.toNat s)) ∧
    (0xFFF < s.I.toNat + x.val → Completes (.ldVxMem x) s (Raised .memOutOfRange s.I.toNat s)) ∧
    (0 < n.val → 0xFFF < s.I.toNat + n.val - 1 →
      Completes (.drw x y n) s (Raised .memOutOfRange s.I.toNat s))

/-- With canonical memory and I + x at most FFF: after FX55 leads s to t, FX65 with the same x on any state that has
t's memory and s's I completes with V0 to Vx as they were in s and I as it was in t, advanced by x + 1. (Derived
from 43_index_memory.md section 2; 95_test_vectors.md E7.) -/
def Obligations.StoreThenLoadRestoresRegisters : Prop :=
  ∀ (s t u : State) (x : RegIdx), MemoryCanonical s → s.I.toNat + x.val ≤ 0xFFF →
    exec (.ldMemVx x) s = .next t → u.mem = t.mem → u.I = s.I →
    Completes (.ldVxMem x) u (fun w => (∀ k : RegIdx, k ≤ x → w.reg k = s.reg k) ∧ w.I = t.I ∧
      t.I.toNat = s.I.toNat + x.val + 1)

/-- With canonical memory, pc at most FFC, I = pc + 2 and x at least 1, after FX55 from an unfaulted state the next
Step runs the instruction that the bytes V0, V1 decode to: no fence is needed. That fetch sees stores is the
spec's decision D20. (Derived from 20_memory.md section 7; 92_eei_decisions.md D20.) -/
def Obligations.FetchSeesTheStoredInstruction : Prop :=
  ∀ (s t : State) (x : RegIdx), MemoryCanonical s → Unfaulted s → s.pc.toNat ≤ 0xFFC → s.I = s.pc + 2 →
    1 ≤ x.val → s.I.toNat + x.val ≤ 0xFFF → exec (.ldMemVx x) s = .next t →
    step t = exec (decodeWord s.params.skipRRDecode (wordOfBytes (s.reg 0) (s.reg 1))) t

/-- exec of 00E0 completes with every pixel off, redraw set, pc + 2, and no other part changed, VF included.
(Formalises R141.) -/
def Obligations.ClearTurnsEveryPixelOff : Prop :=
  ∀ s : State, Completes .cls s (fun t =>
    (∀ col row, pixel t.disp col row = false) ∧ t.redraw = true ∧ PcMoved 2 s t ∧
    ChangesOnly (fun c => c = .pc ∨ c = .redraw ∨ ∃ col row, c = .pixel col row) s t)

/-- When no sprite byte lies above FFF (or n = 0), DXYN completes; every pixel becomes its old value XOR the
sprite's bit there, the sprite starting at (Vx mod 64, Vy mod 32) and clipping at the right and bottom edges; VF
is 1 if some pixel was on under a set sprite bit and 0 otherwise; redraw is set, pc + 2, and nothing else
changes. The range condition is the spec's decision D16. (Derived from 44_display.md section 3;
92_eei_decisions.md D16.) -/
def Obligations.DrawXorsTheClippedSprite : Prop :=
  ∀ (s : State) (x y : RegIdx) (n : Fin 16), n.val = 0 ∨ s.I.toNat + n.val - 1 ≤ 0xFFF →
    Completes (.drw x y n) s (fun t =>
      (∀ col row, pixel t.disp col row = (pixel s.disp col row ^^ spriteBit s x y n.val col row)) ∧
      ((∃ col row, pixel s.disp col row = true ∧ spriteBit s x y n.val col row = true) → t.reg 15 = 1) ∧
      ((∀ col row, spriteBit s x y n.val col row = true → pixel s.disp col row = false) → t.reg 15 = 0) ∧
      t.redraw = true ∧ PcMoved 2 s t ∧
      ChangesOnly (fun c => c = .pc ∨ c = .redraw ∨ c = .reg 15 ∨ ∃ col row, c = .pixel col row) s t)

/-- If DXYN in range leads s to t, then DXYN with the same operands on any state that has t's display and s's
memory, I, Vx and Vy completes with s's display, and leaves VF = 1 exactly when the sprite has a visible set bit
over a pixel that was off in s, which the second draw turns off again (on a clear display: exactly when it has a
visible set bit), and 0 otherwise. Where every visible set bit lies over a pixel that was on, R143's pseudocode
gives 0 and its corner case says 1; this follows the pseudocode (log entry 9). (Derived from 44_display.md
section 3; 95_test_vectors.md E4.) -/
def Obligations.DrawingTwiceRestoresTheDisplay : Prop :=
  ∀ (s t u : State) (x y : RegIdx) (n : Fin 16), n.val = 0 ∨ s.I.toNat + n.val - 1 ≤ 0xFFF →
    exec (.drw x y n) s = .next t → u.disp = t.disp → u.mem = s.mem → u.I = s.I →
    u.reg x = s.reg x → u.reg y = s.reg y →
    Completes (.drw x y n) u (fun w => w.disp = s.disp ∧
      ((∃ col row, spriteBit s x y n.val col row = true ∧ pixel s.disp col row = false) → w.reg 15 = 1) ∧
      ((∀ col row, spriteBit s x y n.val col row = true → pixel s.disp col row = true) → w.reg 15 = 0))

/-- exec of DXYN with n = 0 completes whatever I is, with VF = 0, redraw set, pc + 2, and no pixel or other part
changed. (Derived from 44_display.md section 3; 90_conflicts.md C4.) -/
def Obligations.EmptySpriteDrawsNothing : Prop :=
  ∀ (s : State) (x y : RegIdx), Completes (.drw x y 0) s (fun t =>
    t.reg 15 = 0 ∧ t.redraw = true ∧ PcMoved 2 s t ∧
    ChangesOnly (fun c => c = .pc ∨ c = .redraw ∨ c = .reg 15) s t)

/-- Each completes with the copied byte, pc + 2, and no other part changed; the value FX15 or FX18 writes is what
the next tick counts down and, for ST, what it computes sound_active from. (Formalises R152, R154, R155.) -/
def Obligations.TimerTransfersCopyTheByte : Prop :=
  ∀ (s : State) (x : RegIdx),
    Completes (.ldVxDt x) s (fun t => t.reg x = s.DT ∧
      PcMoved 2 s t ∧ ChangesOnly (fun c => c = .pc ∨ c = .reg x) s t) ∧
    Completes (.ldDtVx x) s (fun t => t.DT = s.reg x ∧ (timerTick t).DT.toNat = (s.reg x).toNat - 1 ∧
      PcMoved 2 s t ∧ ChangesOnly (fun c => c = .pc ∨ c = .delay) s t) ∧
    Completes (.ldStVx x) s (fun t => t.ST = s.reg x ∧ (timerTick t).ST.toNat = (s.reg x).toNat - 1 ∧
      ((timerTick t).soundActive = true ↔ s.reg x ≠ 0) ∧
      PcMoved 2 s t ∧ ChangesOnly (fun c => c = .pc ∨ c = .sound) s t)

/-- If key k is pressed, k is at most KEYWAIT_LAST_KEY and no lower key is pressed, FX0A completes with Vx = k, pc +
2 and nothing else changed; if no key of the range is pressed, it completes with the state it started from. Both
values of the parameter (decision D8) are covered. (Derived from 45_timers_keys.md section 3;
92_eei_decisions.md D8.) -/
def Obligations.KeyWaitTakesTheLowestKeyOrWaits : Prop :=
  ∀ (s : State) (x : RegIdx),
    (∀ k : Fin 16, k.val ≤ keywaitLast s.params.keywaitLastKey → s.key[k] = true →
      (∀ j : Fin 16, j < k → s.key[j] = false) →
      Completes (.ldVxK x) s (fun t => (t.reg x).toNat = k.val ∧
        PcMoved 2 s t ∧ ChangesOnly (fun c => c = .pc ∨ c = .reg x) s t)) ∧
    ((∀ k : Fin 16, k.val ≤ keywaitLast s.params.keywaitLastKey → s.key[k] = false) →
      Completes (.ldVxK x) s (fun t => t = s))

/-- After TimerTick, DT and ST are one less or stay 0, sound_active is set exactly when ST was not 0 before, and no
other part changes. A Frame runs it after nine unfaulted Steps. (Formalises R169.) -/
def Obligations.TimerTickCountsDown : Prop :=
  ∀ s : State,
    (timerTick s).DT.toNat = s.DT.toNat - 1 ∧ (timerTick s).ST.toNat = s.ST.toNat - 1 ∧
    ((timerTick s).soundActive = true ↔ s.ST ≠ 0) ∧
    ChangesOnly (fun c => c = .delay ∨ c = .sound ∨ c = .soundActive) s (timerTick s) ∧
    (∀ t, Unfaulted s → Host.Core.run Sys2Proof.core 9 s = .next t → Unfaulted t →
      frame s = .next (timerTick t))

/-- From an unfaulted state: if nine Steps lead to an unfaulted state t, the Frame leads to the tick of t; if at
most nine Steps lead to a faulted state t, the Frame leads to that t, with no tick. The Frame that stops at a
fault is the spec's decision D18. (Derived from 60_exceptions.md section 3; 92_eei_decisions.md D18.) -/
def Obligations.FrameIsNineStepsThenATick : Prop :=
  (∀ s t : State, Unfaulted s → Host.Core.run Sys2Proof.core 9 s = .next t → Unfaulted t →
    frame s = .next (timerTick t)) ∧
  (∀ (s t : State) (k : Nat), Unfaulted s → k ≤ 9 → Host.Core.run Sys2Proof.core k s = .next t →
    ¬ Unfaulted t → frame s = .next t)

/-- From an unfaulted state whose pc is at an FX0A, with no key of the scan range pressed, a Frame leads to the
timer tick of that same state: pc stays at the FX0A and the timers still tick. (Derived from 45_timers_keys.md
section 3; 95_test_vectors.md E6.) -/
def Obligations.WaitingFrameOnlyTicks : Prop :=
  ∀ (s : State) (w : Word) (x : RegIdx), Unfaulted s → s.fetch = some w →
    decodeWord s.params.skipRRDecode w = .ldVxK x →
    (∀ k : Fin 16, k.val ≤ keywaitLast s.params.keywaitLastKey → s.key[k] = false) →
    frame s = .next (timerTick s)

/-- On every machine, faulted or not, the framebuffer read answers the display and the same state, redraw not
cleared, and the sound read answers sound_active and the same state; the redraw read likewise answers redraw. That
the redraw read is an operation of its own is the spec's decision D26 (log entry 8). (Derived from R173; R174; R176;
92_eei_decisions.md D26; notes/assumptions/8.md.) -/
def Obligations.HostReadsReturnAndChangeNothing : Prop :=
  ∀ s : State,
    hostReply .readFramebuffer s = .framebuffer s.disp ∧ hostOp .readFramebuffer s = .next s ∧
    hostReply .readSoundActive s = .flag s.soundActive ∧ hostOp .readSoundActive s = .next s ∧
    hostReply .readRedraw s = .flag s.redraw ∧ hostOp .readRedraw s = .next s

/-- On every machine, faulted or not: SetKey with k at most 15 leaves key k at the level given and nothing else
changed, and with k above 15 is refused; ClearRedraw leaves redraw 0 and nothing else changed. The refusal is
the spec's decision D23 and the separate clear its decision D26. (Derived from 60_exceptions.md section 4;
92_eei_decisions.md D23; 92_eei_decisions.md D26.) -/
def Obligations.SetKeyAndClearRedrawWriteOneFlag : Prop :=
  ∀ (s : State) (b : Bool),
    (∀ k : Fin 16, ∃ t, hostOp (.setKey k.val b) s = .next t ∧ t.key[k] = b ∧
      ChangesOnly (· = .key k) s t) ∧
    (∀ k : Nat, 15 < k → hostOp (.setKey k b) s = .refused (.notAKey k)) ∧
    (∃ t, hostOp .clearRedraw s = .next t ∧ t.redraw = false ∧ ChangesOnly (· = .redraw) s t)

/-- For canonical memory and every FONT, LoadGlyphs completes with FONT[k] at address k for every k below 80 and
every other byte and part unchanged, on a faulted machine too. That every call rewrites the bytes is the spec's
decision D25. (Derived from 70_reset_and_hazards.md section 1; 92_eei_decisions.md D25.) -/
def Obligations.LoadGlyphsWritesTheFont : Prop :=
  ∀ s : State, MemoryCanonical s → ∃ t, hostOp .loadGlyphs s = .next t ∧
    (∀ k : Fin 80, Memory.read t.mem k.val = s.params.font[k]) ∧
    ChangesOnly (fun c => ∃ k < 80, c = .byte k) s t

/-- For canonical memory: an image that fits is read back byte by byte from 200 and no other byte or part changes; a
longer one raises IMAGE_TOO_LARGE with its length and changes nothing else. The check before copying is the spec's
decision D22. That a too long image on a machine that has already faulted replaces the first record is the model's
own reading (log entry 3, DEDUCED); canonical memory is the model's own form (log entry 6). (Derived from
70_reset_and_hazards.md section 1; 92_eei_decisions.md D22; notes/assumptions/3.md; notes/assumptions/6.md.) -/
def Obligations.LoadProgramCopiesTheImage : Prop :=
  ∀ (s : State) (img : List Byte), MemoryCanonical s →
    (img.length ≤ 3584 → ∃ t, hostOp (.loadProgram img) s = .next t ∧
      (∀ k, (h : k < img.length) → Memory.read t.mem (0x200 + k) = img[k]) ∧
      ChangesOnly (fun c => ∃ k < img.length, c = .byte (0x200 + k)) s t) ∧
    (3584 < img.length → ∃ t, hostOp (.loadProgram img) s = .next t ∧
      Raised .imageTooLarge img.length s t)

/-- For canonical memory and an image that fits, the two loads in either order lead to the same state, the memories
being equal as data. That equal memories are equal data is the model's own choice (log entry 6, DESIGN CHOICE).
(Derived from 70_reset_and_hazards.md section 2; notes/assumptions/6.md.) -/
def Obligations.LoadOrderDoesNotMatter : Prop :=
  ∀ (s : State) (img : List Byte), MemoryCanonical s → img.length ≤ 3584 →
    loadProgram img (loadGlyphs s) = loadGlyphs (loadProgram img s)

/-- For any parameters (the model's own field; log entry 1) and any position of the draw counter (log entry 2), a
created machine has every register, I, DT, ST, memory byte, pixel, key and flag 0, the stack empty, no fault,
and pc = 200; State.reset is such a machine, and the host's Create leads every state to one. (Formalises R37.) -/
def Obligations.CreationValues : Prop :=
  (∀ (p : Config.Params) (n : Nat),
    (∀ x, (State.create p n).reg x = 0) ∧ (State.create p n).I = 0 ∧ (State.create p n).pc = 0x200 ∧
    (State.create p n).stack = [] ∧ (State.create p n).DT = 0 ∧ (State.create p n).ST = 0 ∧
    (∀ a, Memory.read (State.create p n).mem a = 0) ∧
    (∀ col row, pixel (State.create p n).disp col row = false) ∧
    (∀ k : Fin 16, (State.create p n).key[k] = false) ∧ (State.create p n).redraw = false ∧
    (State.create p n).soundActive = false ∧ (State.create p n).fault = none) ∧
  (∃ p n, State.reset = State.create p n) ∧
  (∀ s : State, ∃ p n, hostOp .create s = .next (State.create p n))

/-- For every state with canonical memory (addresses strictly rising, all within 000 to FFF, no zero byte listed),
if step answers a next state, that state's memory is canonical. The canonical form is the model's own choice of
representation (log entry 6, DESIGN CHOICE); the spec gives only the 4096 bytes. (Derived from 20_memory.md sections
1 and 6; notes/assumptions/6.md.) -/
def Obligations.StepKeepsMemoryCanonical : Prop :=
  ∀ s t : State, MemoryCanonical s → step s = .next t → MemoryCanonical t

/-- For every state with pc at most 10FE and every stack entry at most FFE, if step answers a next state, it holds
of that state too; the spec derives these bounds in R25. (Derived from 10_state.md section 3.) -/
def Obligations.StepKeepsAddressesBounded : Prop :=
  ∀ s t : State, AddressesBounded s → step s = .next t → AddressesBounded t

/-- For every state whose stack is within a finite STACK_CAPACITY, if step answers a next state, its stack is within
it too. (Derived from 10_state.md section 4.) -/
def Obligations.StepKeepsStackWithinCapacity : Prop :=
  ∀ s t : State, StackWithinCapacity s → step s = .next t → StackWithinCapacity t

/-- For any parameters and draw position, a created machine has canonical memory, bounded addresses, a stack within
capacity and no fault; so has State.reset. The canonical form, the parameters and the draw position are the model's
own choices (log entries 6, 1 and 2, DESIGN CHOICE). (Derived from 10_state.md section 12; notes/assumptions/1.md;
notes/assumptions/2.md; notes/assumptions/6.md.) -/
def Obligations.CreatedMachineMeetsTheInvariants : Prop :=
  (∀ (p : Config.Params) (n : Nat), MemoryCanonical (State.create p n) ∧ AddressesBounded (State.create p n) ∧
    StackWithinCapacity (State.create p n) ∧ Unfaulted (State.create p n)) ∧
  MemoryCanonical State.reset ∧ AddressesBounded State.reset ∧ StackWithinCapacity State.reset ∧
  Unfaulted State.reset

/-- For every host operation and state that meets canonical memory, bounded addresses and stack within capacity, if
the operation answers a next state, that state meets them. The canonical form is the model's own choice (log entry
6, DESIGN CHOICE); the other two invariants are the spec's. (Derived from 60_exceptions.md section 4; 10_state.md
sections 3 and 4; notes/assumptions/6.md.) -/
def Obligations.HostOperationsKeepTheInvariants : Prop :=
  ∀ (op : HostOp) (s t : State), hostOp op s = .next t →
    (MemoryCanonical s → MemoryCanonical t) ∧ (AddressesBounded s → AddressesBounded t) ∧
    (StackWithinCapacity s → StackWithinCapacity t)

/-- For every instruction and state, if exec answers a next state, every register, byte of memory, pixel, key,
timer, flag and other part that the instruction's rule does not name as written is unchanged; the table of what each
rule names is Safety.Writes. That unnamed state is unchanged is the spec's decision D2. The parts params and draws
are the model's own (log entries 1 and 2, DESIGN CHOICE). (Derived from 00_scope.md section 5; 92_eei_decisions.md
D2; notes/assumptions/1.md; notes/assumptions/2.md.) -/
def Obligations.InstructionsChangeOnlyWhatTheirRulesName : Prop :=
  ∀ (i : Instr) (s t : State), exec i s = .next t → ChangesOnly (Writes s i) s t

/-- If step answers a next state, all 16 keys, sound_active and the parameters are as before: only SetKey writes
keys and only the tick writes sound_active. That the parameters are no state an instruction writes is R36, and the
field that holds them is the model's own (log entry 1, DESIGN CHOICE). (Derived from 10_state.md sections 7, 9 and
11; notes/assumptions/1.md.) -/
def Obligations.StepNeverWritesHostState : Prop :=
  ∀ s t : State, step s = .next t →
    t.key = s.key ∧ t.soundActive = s.soundActive ∧ t.params = s.params

/-- If two states differ only in ST, redraw and sound_active and a Step leads the first to t, then a Step leads the
second to a state that differs from t at most in those three parts. Both states have the same draw counter, so a
CXNN takes the same byte of RAND in both: that the same RAND bytes are given to both is the model's assumption (log
entry 2, DESIGN CHOICE), and nothing is said of two machines with different draws. (Derived from 10_state.md
sections 5 and 9; 60_exceptions.md section 5; notes/assumptions/2.md.) -/
def Obligations.UnreadStateNeverMatters : Prop :=
  ∀ s s' t : State, withoutUnread s = withoutUnread s' → step s = .next t →
    ∃ t', step s' = .next t' ∧ withoutUnread t = withoutUnread t'
end

