-- ==== Sys2Proof/Laws/Fields.lean ====
section
/-! SUPPORT. The bits of a word built from fields, its fields again, and the bytes of a word. -/

namespace Sys2Proof.Machine

theorem getLsbD_formNNN (op : BitVec 4) (nnn : Addr12) (i : Nat) :
    (formNNN op nnn).getLsbD i = if i < 12 then nnn.getLsbD i else op.getLsbD (i - 12) :=
  BitVec.getLsbD_append

theorem getLsbD_formXKK (op : BitVec 4) (x : RegIdx) (kk : Byte) (i : Nat) :
    (formXKK op x kk).getLsbD i =
      if i < 8 then kk.getLsbD i
      else if i < 12 then (BitVec.ofFin (w := 4) x).getLsbD (i - 8) else op.getLsbD (i - 12) := by
  have h : (formXKK op x kk).getLsbD i =
      if i < 8 then kk.getLsbD i else (op ++ BitVec.ofFin (w := 4) x).getLsbD (i - 8) := BitVec.getLsbD_append
  rw [h, BitVec.getLsbD_append]
  split
  · rfl
  · simp only [show (i - 8 < 4) = (i < 12) from propext (by omega), show i - 8 - 4 = i - 12 by omega]

theorem getLsbD_formXYN (op : BitVec 4) (x y : RegIdx) (n : BitVec 4) (i : Nat) :
    (formXYN op x y n).getLsbD i =
      if i < 4 then n.getLsbD i
      else if i < 8 then (BitVec.ofFin (w := 4) y).getLsbD (i - 4)
      else if i < 12 then (BitVec.ofFin (w := 4) x).getLsbD (i - 8) else op.getLsbD (i - 12) := by
  have h : (formXYN op x y n).getLsbD i =
      if i < 4 then n.getLsbD i
      else (op ++ BitVec.ofFin (w := 4) x ++ BitVec.ofFin (w := 4) y).getLsbD (i - 4) := BitVec.getLsbD_append
  rw [h, BitVec.getLsbD_append, BitVec.getLsbD_append]
  split
  · rfl
  · simp only [show (i - 4 < 4) = (i < 8) from propext (by omega), show i - 4 - 4 = i - 8 by omega,
      show (i - 8 < 4) = (i < 12) from propext (by omega), show i - 8 - 4 = i - 12 by omega]

@[simp] theorem opField_formNNN (op : BitVec 4) (nnn : Addr12) : opField (formNNN op nnn) = op := by
  refine BitVec.eq_of_getLsbD_eq fun i hi => ?_
  rw [opField, BitVec.getLsbD_extractLsb', getLsbD_formNNN]
  interval_cases i <;> simp

@[simp] theorem nnnField_formNNN (op : BitVec 4) (nnn : Addr12) : nnnField (formNNN op nnn) = nnn := by
  refine BitVec.eq_of_getLsbD_eq fun i hi => ?_
  rw [nnnField, BitVec.getLsbD_extractLsb', getLsbD_formNNN]
  interval_cases i <;> simp

@[simp] theorem opField_formXKK (op : BitVec 4) (x : RegIdx) (kk : Byte) : opField (formXKK op x kk) = op := by
  refine BitVec.eq_of_getLsbD_eq fun i hi => ?_
  rw [opField, BitVec.getLsbD_extractLsb', getLsbD_formXKK]
  interval_cases i <;> simp

@[simp] theorem xField_formXKK (op : BitVec 4) (x : RegIdx) (kk : Byte) : xField (formXKK op x kk) = x := by
  refine congrArg BitVec.toFin (a₂ := BitVec.ofFin (w := 4) x) (BitVec.eq_of_getLsbD_eq fun i hi => ?_)
  rw [BitVec.getLsbD_extractLsb', getLsbD_formXKK]
  interval_cases i <;> simp

@[simp] theorem kkField_formXKK (op : BitVec 4) (x : RegIdx) (kk : Byte) : kkField (formXKK op x kk) = kk := by
  refine BitVec.eq_of_getLsbD_eq fun i hi => ?_
  rw [kkField, BitVec.getLsbD_extractLsb', getLsbD_formXKK]
  interval_cases i <;> simp

@[simp] theorem opField_formXYN (op : BitVec 4) (x y : RegIdx) (n : BitVec 4) : opField (formXYN op x y n) = op := by
  refine BitVec.eq_of_getLsbD_eq fun i hi => ?_
  rw [opField, BitVec.getLsbD_extractLsb', getLsbD_formXYN]
  interval_cases i <;> simp

@[simp] theorem xField_formXYN (op : BitVec 4) (x y : RegIdx) (n : BitVec 4) : xField (formXYN op x y n) = x := by
  refine congrArg BitVec.toFin (a₂ := BitVec.ofFin (w := 4) x) (BitVec.eq_of_getLsbD_eq fun i hi => ?_)
  rw [BitVec.getLsbD_extractLsb', getLsbD_formXYN]
  interval_cases i <;> simp

@[simp] theorem yField_formXYN (op : BitVec 4) (x y : RegIdx) (n : BitVec 4) : yField (formXYN op x y n) = y := by
  refine congrArg BitVec.toFin (a₂ := BitVec.ofFin (w := 4) y) (BitVec.eq_of_getLsbD_eq fun i hi => ?_)
  rw [BitVec.getLsbD_extractLsb', getLsbD_formXYN]
  interval_cases i <;> simp

@[simp] theorem nField_formXYN (op : BitVec 4) (x y : RegIdx) (n : BitVec 4) : nField (formXYN op x y n) = n := by
  refine BitVec.eq_of_getLsbD_eq fun i hi => ?_
  rw [nField, BitVec.getLsbD_extractLsb', getLsbD_formXYN]
  interval_cases i <;> simp

/-- Big-endian as arithmetic (20_memory.md R42). -/
theorem toNat_wordOfBytes (hi lo : Byte) : (wordOfBytes hi lo).toNat = hi.toNat * 256 + lo.toNat := by
  have h := BitVec.toNat_append hi lo
  rw [Nat.shiftLeft_eq, ← Nat.shiftLeft_eq, ← Nat.shiftLeft_add_eq_or_of_lt lo.isLt, Nat.shiftLeft_eq] at h
  exact h

/-- A word's two bytes make the word again. -/
@[simp] theorem wordOfBytes_bytes (w : Word) : wordOfBytes (highByte w) (lowByte w) = w := by
  refine BitVec.eq_of_getLsbD_eq fun i hi => ?_
  have h : (wordOfBytes (highByte w) (lowByte w)).getLsbD i =
      if i < 8 then (lowByte w).getLsbD i else (highByte w).getLsbD (i - 8) := BitVec.getLsbD_append
  rw [h, lowByte, highByte, BitVec.getLsbD_extractLsb', BitVec.getLsbD_extractLsb']
  split
  · simp [*]
  · simp [show i - 8 < 8 by omega, show 8 + (i - 8) = i by omega]

end Sys2Proof.Machine
end

