-- ==== Sys2Proof/Laws/Memory.lean ====
section
/-! SUPPORT. The laws of memory: read after write, and the canonical form kept. -/

namespace Sys2Proof.Machine

/-- Reading after `put`, on any list in rising order. -/
theorem Memory.read_put {m : Memory} (h : m.Pairwise (fun c d => c.1 < d.1)) (a : Nat) (b : Byte) (a' : Nat) :
    Memory.read (Memory.put a b m) a' = if a' = a then b else Memory.read m a' := by
  induction m with
  | nil =>
    rw [Memory.put]
    split <;> simp [Memory.read, *]
  | cons c m ih =>
    obtain ⟨c1, c2⟩ := c
    obtain ⟨hc, hm⟩ := List.pairwise_cons.1 h
    have tail : ∀ a, a ≤ c1 → Memory.read m a = 0 := by
      clear ih h
      intro a ha
      induction m with
      | nil => rfl
      | cons d m ihm =>
        obtain ⟨d1, d2⟩ := d
        have : c1 < d1 := hc _ List.mem_cons_self
        rw [Memory.read, if_neg (by omega)]
        exact ihm (fun e he => hc e (List.mem_cons_of_mem _ he)) (List.pairwise_cons.1 hm).2
    rw [Memory.put]
    split
    · split
      · by_cases e : a' = a
        · subst e; simp [Memory.read, tail a' (by omega), *]; omega
        · simp [e]
      · simp [Memory.read]
    · split
      · rename_i e; subst e
        split
        · by_cases e : a' = a
          · subst e; simp [tail a' (Nat.le_refl _), *]
          · simp [Memory.read, e]
        · by_cases e : a' = a <;> simp [Memory.read, e]
      · by_cases e : a' = c1
        · subst e; rw [Memory.read, if_pos rfl, if_neg (by omega), Memory.read, if_pos rfl]
        · rw [Memory.read, if_neg e, ih hm, Memory.read, if_neg e]

/-- `put` changes no other address, on any list at all. -/
theorem Memory.read_put_ne (m : Memory) {a a' : Nat} (b : Byte) (h : a' ≠ a) :
    Memory.read (Memory.put a b m) a' = Memory.read m a' := by
  induction m with
  | nil =>
    rw [Memory.put]
    split <;> simp [Memory.read, h]
  | cons c m ih =>
    rw [Memory.put]
    split <;> [skip; split] <;> (try split) <;> simp_all [Memory.read]

/-- A write of consecutive bytes changes no address outside them, on any list at all. -/
theorem Memory.read_writeBytes_ne (m : Memory) {a a' : Nat} {bs : List Byte} (h : a' < a ∨ a + bs.length ≤ a') :
    Memory.read (Memory.writeBytes m a bs) a' = Memory.read m a' := by
  induction bs generalizing m a with
  | nil => rfl
  | cons b bs ih =>
    rw [List.length_cons] at h
    rw [Memory.writeBytes, ih _ (by omega), Memory.write]
    split
    · exact Memory.read_put_ne m b (by omega)
    · rfl

/-- Where `put`'s entries come from. -/
theorem Memory.mem_put {m : Memory} {a : Nat} {b : Byte} {c : Host.Cell} (h : c ∈ Memory.put a b m) :
    (c = (a, b) ∧ b ≠ 0) ∨ c ∈ m := by
  induction m with
  | nil =>
    rw [Memory.put] at h
    split at h <;> simp_all
  | cons d m ih =>
    rw [Memory.put] at h
    split at h <;> [skip; split at h] <;> (try split at h) <;>
      simp only [List.mem_cons] at h ⊢ <;> tauto

/-- `put` keeps the canonical form. -/
theorem Memory.put_wf {m : Memory} (h : Memory.wf m) {a : Nat} (ha : a ≤ lastAddr) (b : Byte) :
    Memory.wf (Memory.put a b m) := by
  refine ⟨?_, fun c hc => ?_⟩
  · obtain ⟨hs, -⟩ := h
    induction m with
    | nil => rw [Memory.put]; split <;> simp
    | cons d m ih =>
      obtain ⟨hd, hm⟩ := List.pairwise_cons.1 hs
      rw [Memory.put]
      split
      · split
        · exact hs
        · refine List.pairwise_cons.2 ⟨fun e he => ?_, hs⟩
          rcases List.mem_cons.1 he with rfl | he
          · assumption
          · exact Nat.lt_trans ‹a < _› (hd e he)
      · split
        · rename_i e; subst e
          split
          · exact hm
          · exact List.pairwise_cons.2 ⟨hd, hm⟩
        · refine List.pairwise_cons.2 ⟨fun e he => ?_, ih hm⟩
          rcases Memory.mem_put he with ⟨rfl, -⟩ | he
          · show _ < a; omega
          · exact hd e he
  · rcases Memory.mem_put hc with ⟨rfl, hb⟩ | hc
    · exact ⟨ha, hb⟩
    · exact h.2 c hc

/-- A byte write keeps the canonical form. -/
theorem Memory.write_wf {m : Memory} (h : Memory.wf m) (a : Nat) (b : Byte) : Memory.wf (Memory.write m a b) := by
  rw [Memory.write]
  split
  · exact Memory.put_wf h ‹_› b
  · exact h

/-- A write of consecutive bytes keeps the canonical form. -/
theorem Memory.writeBytes_wf {m : Memory} (h : Memory.wf m) (a : Nat) (bs : List Byte) :
    Memory.wf (Memory.writeBytes m a bs) := by
  induction bs generalizing m a with
  | nil => exact h
  | cons b bs ih => exact ih (Memory.write_wf h a b) (a + 1)

/-- Read after write: the byte written there, every other byte as before. -/
theorem Memory.read_write {m : Memory} (h : Memory.wf m) {a : Nat} (ha : a ≤ lastAddr) (b : Byte) (a' : Nat) :
    Memory.read (Memory.write m a b) a' = if a' = a then b else Memory.read m a' := by
  rw [Memory.write, if_pos ha, Memory.read_put h.1]

/-- Read after a write of consecutive bytes: inside the range the byte written, outside it the byte before. -/
theorem Memory.read_writeBytes {m : Memory} (h : Memory.wf m) {a : Nat} {bs : List Byte}
    (ha : a + bs.length ≤ lastAddr + 1) (a' : Nat) :
    Memory.read (Memory.writeBytes m a bs) a' =
      if a ≤ a' ∧ a' < a + bs.length then bs.getD (a' - a) 0 else Memory.read m a' := by
  induction bs generalizing m a with
  | nil => rw [if_neg (by rw [List.length_nil]; omega)]; rfl
  | cons b bs ih =>
    rw [List.length_cons] at ha ⊢
    rw [Memory.writeBytes, ih (Memory.write_wf h a b) (by omega), Memory.read_write h (by omega)]
    by_cases e : a' = a
    · subst e; simp
    · by_cases e' : a + 1 ≤ a' ∧ a' < a + 1 + bs.length
      · rw [if_pos e', if_pos (by omega)]
        obtain ⟨k, hk⟩ : ∃ k, a' = a + 1 + k := ⟨a' - (a + 1), by omega⟩
        subst hk
        simp [show a + 1 + k - a = k + 1 by omega]
      · rw [if_neg e', if_neg e, if_neg (by omega)]

/-- An address no entry is at reads as 0. -/
theorem Memory.read_eq_zero {m : Memory} {a : Nat} (h : ∀ c ∈ m, c.1 ≠ a) : Memory.read m a = 0 := by
  induction m with
  | nil => rfl
  | cons c m ih =>
    rw [Memory.read, if_neg (fun e => h c List.mem_cons_self e.symm)]
    exact ih fun d hd => h d (List.mem_cons_of_mem _ hd)

/-- Memories in canonical form that read the same at every address are the same list. -/
theorem Memory.ext {m m' : Memory} (h : Memory.wf m) (h' : Memory.wf m')
    (e : ∀ a, Memory.read m a = Memory.read m' a) : m = m' := by
  induction m generalizing m' with
  | nil =>
    cases m' with
    | nil => rfl
    | cons c m' =>
      have := e c.1
      rw [Memory.read, Memory.read, if_pos rfl] at this
      exact absurd this.symm (h'.2 c List.mem_cons_self).2
  | cons c m ih =>
    cases m' with
    | nil =>
      have := e c.1
      rw [Memory.read, Memory.read, if_pos rfl] at this
      exact absurd this (h.2 c List.mem_cons_self).2
    | cons d m' =>
      obtain ⟨hc, hm⟩ := List.pairwise_cons.1 h.1
      obtain ⟨hd, hm'⟩ := List.pairwise_cons.1 h'.1
      have low : ∀ {c : Host.Cell} {m : Memory} {a : Nat}, (∀ e ∈ m, c.1 < e.1) → a < c.1 →
          Memory.read (c :: m) a = 0 := fun hc ha => Memory.read_eq_zero fun e he => by
        rcases List.mem_cons.1 he with rfl | he
        · omega
        · have := hc e he; omega
      have hk : c.1 = d.1 := by
        rcases Nat.lt_trichotomy c.1 d.1 with hlt | heq | hgt
        · have := e c.1
          rw [low hd hlt, Memory.read, if_pos rfl] at this
          exact absurd this (h.2 c List.mem_cons_self).2
        · exact heq
        · have := e d.1
          rw [low hc hgt, Memory.read, if_pos rfl] at this
          exact absurd this.symm (h'.2 d List.mem_cons_self).2
      have hv : c.2 = d.2 := by
        have := e c.1
        rwa [Memory.read, if_pos rfl, Memory.read, if_pos hk] at this
      obtain rfl : c = d := Prod.ext hk hv
      congr 1
      refine ih ⟨hm, fun x hx => h.2 x (List.mem_cons_of_mem _ hx)⟩
        ⟨hm', fun x hx => h'.2 x (List.mem_cons_of_mem _ hx)⟩ fun a => ?_
      by_cases ha : a = c.1
      · rw [Memory.read_eq_zero fun x hx => by have := hc x hx; omega,
          Memory.read_eq_zero fun x hx => by have := hd x hx; omega]
      · have := e a
        rwa [Memory.read, if_neg ha, Memory.read, if_neg ha] at this

end Sys2Proof.Machine
end

