-- ==== Sys2Proof/Laws/State.lean ====
section
/-! SUPPORT. One lemma per field per update of the state, and the register read after each update. -/

namespace Sys2Proof.Machine

@[simp] theorem State.raise_v (s : State) (c : FaultCode) (n : Nat) : (s.raise c n).v = s.v := rfl
@[simp] theorem State.raise_I (s : State) (c : FaultCode) (n : Nat) : (s.raise c n).I = s.I := rfl
@[simp] theorem State.raise_pc (s : State) (c : FaultCode) (n : Nat) : (s.raise c n).pc = s.pc := rfl
@[simp] theorem State.raise_stack (s : State) (c : FaultCode) (n : Nat) : (s.raise c n).stack = s.stack := rfl
@[simp] theorem State.raise_DT (s : State) (c : FaultCode) (n : Nat) : (s.raise c n).DT = s.DT := rfl
@[simp] theorem State.raise_ST (s : State) (c : FaultCode) (n : Nat) : (s.raise c n).ST = s.ST := rfl
@[simp] theorem State.raise_mem (s : State) (c : FaultCode) (n : Nat) : (s.raise c n).mem = s.mem := rfl
@[simp] theorem State.raise_disp (s : State) (c : FaultCode) (n : Nat) : (s.raise c n).disp = s.disp := rfl
@[simp] theorem State.raise_key (s : State) (c : FaultCode) (n : Nat) : (s.raise c n).key = s.key := rfl
@[simp] theorem State.raise_redraw (s : State) (c : FaultCode) (n : Nat) : (s.raise c n).redraw = s.redraw := rfl
@[simp] theorem State.raise_soundActive (s : State) (c : FaultCode) (n : Nat) : (s.raise c n).soundActive = s.soundActive := rfl
@[simp] theorem State.raise_fault (s : State) (c : FaultCode) (n : Nat) : (s.raise c n).fault = some { code := c, pc := s.pc, info := n } := rfl
@[simp] theorem State.raise_params (s : State) (c : FaultCode) (n : Nat) : (s.raise c n).params = s.params := rfl
@[simp] theorem State.raise_draws (s : State) (c : FaultCode) (n : Nat) : (s.raise c n).draws = s.draws := rfl
@[simp] theorem State.raise_reg (s : State) (c : FaultCode) (n : Nat) (j : RegIdx) : (s.raise c n).reg j = s.reg j := rfl

@[simp] theorem State.setReg_v (s : State) (x : RegIdx) (b : Byte) : (s.setReg x b).v = s.v.set x b := rfl
@[simp] theorem State.setReg_I (s : State) (x : RegIdx) (b : Byte) : (s.setReg x b).I = s.I := rfl
@[simp] theorem State.setReg_pc (s : State) (x : RegIdx) (b : Byte) : (s.setReg x b).pc = s.pc := rfl
@[simp] theorem State.setReg_stack (s : State) (x : RegIdx) (b : Byte) : (s.setReg x b).stack = s.stack := rfl
@[simp] theorem State.setReg_DT (s : State) (x : RegIdx) (b : Byte) : (s.setReg x b).DT = s.DT := rfl
@[simp] theorem State.setReg_ST (s : State) (x : RegIdx) (b : Byte) : (s.setReg x b).ST = s.ST := rfl
@[simp] theorem State.setReg_mem (s : State) (x : RegIdx) (b : Byte) : (s.setReg x b).mem = s.mem := rfl
@[simp] theorem State.setReg_disp (s : State) (x : RegIdx) (b : Byte) : (s.setReg x b).disp = s.disp := rfl
@[simp] theorem State.setReg_key (s : State) (x : RegIdx) (b : Byte) : (s.setReg x b).key = s.key := rfl
@[simp] theorem State.setReg_redraw (s : State) (x : RegIdx) (b : Byte) : (s.setReg x b).redraw = s.redraw := rfl
@[simp] theorem State.setReg_soundActive (s : State) (x : RegIdx) (b : Byte) : (s.setReg x b).soundActive = s.soundActive := rfl
@[simp] theorem State.setReg_fault (s : State) (x : RegIdx) (b : Byte) : (s.setReg x b).fault = s.fault := rfl
@[simp] theorem State.setReg_params (s : State) (x : RegIdx) (b : Byte) : (s.setReg x b).params = s.params := rfl
@[simp] theorem State.setReg_draws (s : State) (x : RegIdx) (b : Byte) : (s.setReg x b).draws = s.draws := rfl

@[simp] theorem State.setI_v (s : State) (w : Word) : (s.setI w).v = s.v := rfl
@[simp] theorem State.setI_I (s : State) (w : Word) : (s.setI w).I = w := rfl
@[simp] theorem State.setI_pc (s : State) (w : Word) : (s.setI w).pc = s.pc := rfl
@[simp] theorem State.setI_stack (s : State) (w : Word) : (s.setI w).stack = s.stack := rfl
@[simp] theorem State.setI_DT (s : State) (w : Word) : (s.setI w).DT = s.DT := rfl
@[simp] theorem State.setI_ST (s : State) (w : Word) : (s.setI w).ST = s.ST := rfl
@[simp] theorem State.setI_mem (s : State) (w : Word) : (s.setI w).mem = s.mem := rfl
@[simp] theorem State.setI_disp (s : State) (w : Word) : (s.setI w).disp = s.disp := rfl
@[simp] theorem State.setI_key (s : State) (w : Word) : (s.setI w).key = s.key := rfl
@[simp] theorem State.setI_redraw (s : State) (w : Word) : (s.setI w).redraw = s.redraw := rfl
@[simp] theorem State.setI_soundActive (s : State) (w : Word) : (s.setI w).soundActive = s.soundActive := rfl
@[simp] theorem State.setI_fault (s : State) (w : Word) : (s.setI w).fault = s.fault := rfl
@[simp] theorem State.setI_params (s : State) (w : Word) : (s.setI w).params = s.params := rfl
@[simp] theorem State.setI_draws (s : State) (w : Word) : (s.setI w).draws = s.draws := rfl
@[simp] theorem State.setI_reg (s : State) (w : Word) (j : RegIdx) : (s.setI w).reg j = s.reg j := rfl

@[simp] theorem State.setPc_v (s : State) (w : Word) : (s.setPc w).v = s.v := rfl
@[simp] theorem State.setPc_I (s : State) (w : Word) : (s.setPc w).I = s.I := rfl
@[simp] theorem State.setPc_pc (s : State) (w : Word) : (s.setPc w).pc = w := rfl
@[simp] theorem State.setPc_stack (s : State) (w : Word) : (s.setPc w).stack = s.stack := rfl
@[simp] theorem State.setPc_DT (s : State) (w : Word) : (s.setPc w).DT = s.DT := rfl
@[simp] theorem State.setPc_ST (s : State) (w : Word) : (s.setPc w).ST = s.ST := rfl
@[simp] theorem State.setPc_mem (s : State) (w : Word) : (s.setPc w).mem = s.mem := rfl
@[simp] theorem State.setPc_disp (s : State) (w : Word) : (s.setPc w).disp = s.disp := rfl
@[simp] theorem State.setPc_key (s : State) (w : Word) : (s.setPc w).key = s.key := rfl
@[simp] theorem State.setPc_redraw (s : State) (w : Word) : (s.setPc w).redraw = s.redraw := rfl
@[simp] theorem State.setPc_soundActive (s : State) (w : Word) : (s.setPc w).soundActive = s.soundActive := rfl
@[simp] theorem State.setPc_fault (s : State) (w : Word) : (s.setPc w).fault = s.fault := rfl
@[simp] theorem State.setPc_params (s : State) (w : Word) : (s.setPc w).params = s.params := rfl
@[simp] theorem State.setPc_draws (s : State) (w : Word) : (s.setPc w).draws = s.draws := rfl
@[simp] theorem State.setPc_reg (s : State) (w : Word) (j : RegIdx) : (s.setPc w).reg j = s.reg j := rfl

@[simp] theorem State.advance_v (s : State) : (s.advance).v = s.v := rfl
@[simp] theorem State.advance_I (s : State) : (s.advance).I = s.I := rfl
@[simp] theorem State.advance_pc (s : State) : (s.advance).pc = s.pc + 2 := rfl
@[simp] theorem State.advance_stack (s : State) : (s.advance).stack = s.stack := rfl
@[simp] theorem State.advance_DT (s : State) : (s.advance).DT = s.DT := rfl
@[simp] theorem State.advance_ST (s : State) : (s.advance).ST = s.ST := rfl
@[simp] theorem State.advance_mem (s : State) : (s.advance).mem = s.mem := rfl
@[simp] theorem State.advance_disp (s : State) : (s.advance).disp = s.disp := rfl
@[simp] theorem State.advance_key (s : State) : (s.advance).key = s.key := rfl
@[simp] theorem State.advance_redraw (s : State) : (s.advance).redraw = s.redraw := rfl
@[simp] theorem State.advance_soundActive (s : State) : (s.advance).soundActive = s.soundActive := rfl
@[simp] theorem State.advance_fault (s : State) : (s.advance).fault = s.fault := rfl
@[simp] theorem State.advance_params (s : State) : (s.advance).params = s.params := rfl
@[simp] theorem State.advance_draws (s : State) : (s.advance).draws = s.draws := rfl
@[simp] theorem State.advance_reg (s : State) (j : RegIdx) : (s.advance).reg j = s.reg j := rfl

@[simp] theorem State.setDT_v (s : State) (b : Byte) : (s.setDT b).v = s.v := rfl
@[simp] theorem State.setDT_I (s : State) (b : Byte) : (s.setDT b).I = s.I := rfl
@[simp] theorem State.setDT_pc (s : State) (b : Byte) : (s.setDT b).pc = s.pc := rfl
@[simp] theorem State.setDT_stack (s : State) (b : Byte) : (s.setDT b).stack = s.stack := rfl
@[simp] theorem State.setDT_DT (s : State) (b : Byte) : (s.setDT b).DT = b := rfl
@[simp] theorem State.setDT_ST (s : State) (b : Byte) : (s.setDT b).ST = s.ST := rfl
@[simp] theorem State.setDT_mem (s : State) (b : Byte) : (s.setDT b).mem = s.mem := rfl
@[simp] theorem State.setDT_disp (s : State) (b : Byte) : (s.setDT b).disp = s.disp := rfl
@[simp] theorem State.setDT_key (s : State) (b : Byte) : (s.setDT b).key = s.key := rfl
@[simp] theorem State.setDT_redraw (s : State) (b : Byte) : (s.setDT b).redraw = s.redraw := rfl
@[simp] theorem State.setDT_soundActive (s : State) (b : Byte) : (s.setDT b).soundActive = s.soundActive := rfl
@[simp] theorem State.setDT_fault (s : State) (b : Byte) : (s.setDT b).fault = s.fault := rfl
@[simp] theorem State.setDT_params (s : State) (b : Byte) : (s.setDT b).params = s.params := rfl
@[simp] theorem State.setDT_draws (s : State) (b : Byte) : (s.setDT b).draws = s.draws := rfl
@[simp] theorem State.setDT_reg (s : State) (b : Byte) (j : RegIdx) : (s.setDT b).reg j = s.reg j := rfl

@[simp] theorem State.setST_v (s : State) (b : Byte) : (s.setST b).v = s.v := rfl
@[simp] theorem State.setST_I (s : State) (b : Byte) : (s.setST b).I = s.I := rfl
@[simp] theorem State.setST_pc (s : State) (b : Byte) : (s.setST b).pc = s.pc := rfl
@[simp] theorem State.setST_stack (s : State) (b : Byte) : (s.setST b).stack = s.stack := rfl
@[simp] theorem State.setST_DT (s : State) (b : Byte) : (s.setST b).DT = s.DT := rfl
@[simp] theorem State.setST_ST (s : State) (b : Byte) : (s.setST b).ST = b := rfl
@[simp] theorem State.setST_mem (s : State) (b : Byte) : (s.setST b).mem = s.mem := rfl
@[simp] theorem State.setST_disp (s : State) (b : Byte) : (s.setST b).disp = s.disp := rfl
@[simp] theorem State.setST_key (s : State) (b : Byte) : (s.setST b).key = s.key := rfl
@[simp] theorem State.setST_redraw (s : State) (b : Byte) : (s.setST b).redraw = s.redraw := rfl
@[simp] theorem State.setST_soundActive (s : State) (b : Byte) : (s.setST b).soundActive = s.soundActive := rfl
@[simp] theorem State.setST_fault (s : State) (b : Byte) : (s.setST b).fault = s.fault := rfl
@[simp] theorem State.setST_params (s : State) (b : Byte) : (s.setST b).params = s.params := rfl
@[simp] theorem State.setST_draws (s : State) (b : Byte) : (s.setST b).draws = s.draws := rfl
@[simp] theorem State.setST_reg (s : State) (b : Byte) (j : RegIdx) : (s.setST b).reg j = s.reg j := rfl

@[simp] theorem State.setMem_v (s : State) (m : Memory) : (s.setMem m).v = s.v := rfl
@[simp] theorem State.setMem_I (s : State) (m : Memory) : (s.setMem m).I = s.I := rfl
@[simp] theorem State.setMem_pc (s : State) (m : Memory) : (s.setMem m).pc = s.pc := rfl
@[simp] theorem State.setMem_stack (s : State) (m : Memory) : (s.setMem m).stack = s.stack := rfl
@[simp] theorem State.setMem_DT (s : State) (m : Memory) : (s.setMem m).DT = s.DT := rfl
@[simp] theorem State.setMem_ST (s : State) (m : Memory) : (s.setMem m).ST = s.ST := rfl
@[simp] theorem State.setMem_mem (s : State) (m : Memory) : (s.setMem m).mem = m := rfl
@[simp] theorem State.setMem_disp (s : State) (m : Memory) : (s.setMem m).disp = s.disp := rfl
@[simp] theorem State.setMem_key (s : State) (m : Memory) : (s.setMem m).key = s.key := rfl
@[simp] theorem State.setMem_redraw (s : State) (m : Memory) : (s.setMem m).redraw = s.redraw := rfl
@[simp] theorem State.setMem_soundActive (s : State) (m : Memory) : (s.setMem m).soundActive = s.soundActive := rfl
@[simp] theorem State.setMem_fault (s : State) (m : Memory) : (s.setMem m).fault = s.fault := rfl
@[simp] theorem State.setMem_params (s : State) (m : Memory) : (s.setMem m).params = s.params := rfl
@[simp] theorem State.setMem_draws (s : State) (m : Memory) : (s.setMem m).draws = s.draws := rfl
@[simp] theorem State.setMem_reg (s : State) (m : Memory) (j : RegIdx) : (s.setMem m).reg j = s.reg j := rfl

@[simp] theorem State.setRegs_v (s : State) (v : Vector Byte 16) : (s.setRegs v).v = v := rfl
@[simp] theorem State.setRegs_I (s : State) (v : Vector Byte 16) : (s.setRegs v).I = s.I := rfl
@[simp] theorem State.setRegs_pc (s : State) (v : Vector Byte 16) : (s.setRegs v).pc = s.pc := rfl
@[simp] theorem State.setRegs_stack (s : State) (v : Vector Byte 16) : (s.setRegs v).stack = s.stack := rfl
@[simp] theorem State.setRegs_DT (s : State) (v : Vector Byte 16) : (s.setRegs v).DT = s.DT := rfl
@[simp] theorem State.setRegs_ST (s : State) (v : Vector Byte 16) : (s.setRegs v).ST = s.ST := rfl
@[simp] theorem State.setRegs_mem (s : State) (v : Vector Byte 16) : (s.setRegs v).mem = s.mem := rfl
@[simp] theorem State.setRegs_disp (s : State) (v : Vector Byte 16) : (s.setRegs v).disp = s.disp := rfl
@[simp] theorem State.setRegs_key (s : State) (v : Vector Byte 16) : (s.setRegs v).key = s.key := rfl
@[simp] theorem State.setRegs_redraw (s : State) (v : Vector Byte 16) : (s.setRegs v).redraw = s.redraw := rfl
@[simp] theorem State.setRegs_soundActive (s : State) (v : Vector Byte 16) : (s.setRegs v).soundActive = s.soundActive := rfl
@[simp] theorem State.setRegs_fault (s : State) (v : Vector Byte 16) : (s.setRegs v).fault = s.fault := rfl
@[simp] theorem State.setRegs_params (s : State) (v : Vector Byte 16) : (s.setRegs v).params = s.params := rfl
@[simp] theorem State.setRegs_draws (s : State) (v : Vector Byte 16) : (s.setRegs v).draws = s.draws := rfl

@[simp] theorem State.setKey_v (s : State) (k : Fin 16) (b : Bool) : (s.setKey k b).v = s.v := rfl
@[simp] theorem State.setKey_I (s : State) (k : Fin 16) (b : Bool) : (s.setKey k b).I = s.I := rfl
@[simp] theorem State.setKey_pc (s : State) (k : Fin 16) (b : Bool) : (s.setKey k b).pc = s.pc := rfl
@[simp] theorem State.setKey_stack (s : State) (k : Fin 16) (b : Bool) : (s.setKey k b).stack = s.stack := rfl
@[simp] theorem State.setKey_DT (s : State) (k : Fin 16) (b : Bool) : (s.setKey k b).DT = s.DT := rfl
@[simp] theorem State.setKey_ST (s : State) (k : Fin 16) (b : Bool) : (s.setKey k b).ST = s.ST := rfl
@[simp] theorem State.setKey_mem (s : State) (k : Fin 16) (b : Bool) : (s.setKey k b).mem = s.mem := rfl
@[simp] theorem State.setKey_disp (s : State) (k : Fin 16) (b : Bool) : (s.setKey k b).disp = s.disp := rfl
@[simp] theorem State.setKey_key (s : State) (k : Fin 16) (b : Bool) : (s.setKey k b).key = s.key.set k b := rfl
@[simp] theorem State.setKey_redraw (s : State) (k : Fin 16) (b : Bool) : (s.setKey k b).redraw = s.redraw := rfl
@[simp] theorem State.setKey_soundActive (s : State) (k : Fin 16) (b : Bool) : (s.setKey k b).soundActive = s.soundActive := rfl
@[simp] theorem State.setKey_fault (s : State) (k : Fin 16) (b : Bool) : (s.setKey k b).fault = s.fault := rfl
@[simp] theorem State.setKey_params (s : State) (k : Fin 16) (b : Bool) : (s.setKey k b).params = s.params := rfl
@[simp] theorem State.setKey_draws (s : State) (k : Fin 16) (b : Bool) : (s.setKey k b).draws = s.draws := rfl
@[simp] theorem State.setKey_reg (s : State) (k : Fin 16) (b : Bool) (j : RegIdx) : (s.setKey k b).reg j = s.reg j := rfl

@[simp] theorem State.drawTaken_v (s : State) : (s.drawTaken).v = s.v := rfl
@[simp] theorem State.drawTaken_I (s : State) : (s.drawTaken).I = s.I := rfl
@[simp] theorem State.drawTaken_pc (s : State) : (s.drawTaken).pc = s.pc := rfl
@[simp] theorem State.drawTaken_stack (s : State) : (s.drawTaken).stack = s.stack := rfl
@[simp] theorem State.drawTaken_DT (s : State) : (s.drawTaken).DT = s.DT := rfl
@[simp] theorem State.drawTaken_ST (s : State) : (s.drawTaken).ST = s.ST := rfl
@[simp] theorem State.drawTaken_mem (s : State) : (s.drawTaken).mem = s.mem := rfl
@[simp] theorem State.drawTaken_disp (s : State) : (s.drawTaken).disp = s.disp := rfl
@[simp] theorem State.drawTaken_key (s : State) : (s.drawTaken).key = s.key := rfl
@[simp] theorem State.drawTaken_redraw (s : State) : (s.drawTaken).redraw = s.redraw := rfl
@[simp] theorem State.drawTaken_soundActive (s : State) : (s.drawTaken).soundActive = s.soundActive := rfl
@[simp] theorem State.drawTaken_fault (s : State) : (s.drawTaken).fault = s.fault := rfl
@[simp] theorem State.drawTaken_params (s : State) : (s.drawTaken).params = s.params := rfl
@[simp] theorem State.drawTaken_draws (s : State) : (s.drawTaken).draws = s.draws + 1 := rfl
@[simp] theorem State.drawTaken_reg (s : State) (j : RegIdx) : (s.drawTaken).reg j = s.reg j := rfl

@[simp] theorem State.push_v (s : State) (w : Word) : (s.push w).v = s.v := rfl
@[simp] theorem State.push_I (s : State) (w : Word) : (s.push w).I = s.I := rfl
@[simp] theorem State.push_pc (s : State) (w : Word) : (s.push w).pc = s.pc := rfl
@[simp] theorem State.push_stack (s : State) (w : Word) : (s.push w).stack = s.stack ++ [w] := rfl
@[simp] theorem State.push_DT (s : State) (w : Word) : (s.push w).DT = s.DT := rfl
@[simp] theorem State.push_ST (s : State) (w : Word) : (s.push w).ST = s.ST := rfl
@[simp] theorem State.push_mem (s : State) (w : Word) : (s.push w).mem = s.mem := rfl
@[simp] theorem State.push_disp (s : State) (w : Word) : (s.push w).disp = s.disp := rfl
@[simp] theorem State.push_key (s : State) (w : Word) : (s.push w).key = s.key := rfl
@[simp] theorem State.push_redraw (s : State) (w : Word) : (s.push w).redraw = s.redraw := rfl
@[simp] theorem State.push_soundActive (s : State) (w : Word) : (s.push w).soundActive = s.soundActive := rfl
@[simp] theorem State.push_fault (s : State) (w : Word) : (s.push w).fault = s.fault := rfl
@[simp] theorem State.push_params (s : State) (w : Word) : (s.push w).params = s.params := rfl
@[simp] theorem State.push_draws (s : State) (w : Word) : (s.push w).draws = s.draws := rfl
@[simp] theorem State.push_reg (s : State) (w : Word) (j : RegIdx) : (s.push w).reg j = s.reg j := rfl

@[simp] theorem State.popped_v (s : State) : (s.popped).v = s.v := rfl
@[simp] theorem State.popped_I (s : State) : (s.popped).I = s.I := rfl
@[simp] theorem State.popped_pc (s : State) : (s.popped).pc = s.pc := rfl
@[simp] theorem State.popped_stack (s : State) : (s.popped).stack = s.stack.dropLast := rfl
@[simp] theorem State.popped_DT (s : State) : (s.popped).DT = s.DT := rfl
@[simp] theorem State.popped_ST (s : State) : (s.popped).ST = s.ST := rfl
@[simp] theorem State.popped_mem (s : State) : (s.popped).mem = s.mem := rfl
@[simp] theorem State.popped_disp (s : State) : (s.popped).disp = s.disp := rfl
@[simp] theorem State.popped_key (s : State) : (s.popped).key = s.key := rfl
@[simp] theorem State.popped_redraw (s : State) : (s.popped).redraw = s.redraw := rfl
@[simp] theorem State.popped_soundActive (s : State) : (s.popped).soundActive = s.soundActive := rfl
@[simp] theorem State.popped_fault (s : State) : (s.popped).fault = s.fault := rfl
@[simp] theorem State.popped_params (s : State) : (s.popped).params = s.params := rfl
@[simp] theorem State.popped_draws (s : State) : (s.popped).draws = s.draws := rfl
@[simp] theorem State.popped_reg (s : State) (j : RegIdx) : (s.popped).reg j = s.reg j := rfl

@[simp] theorem State.present_v (s : State) (d : Display) : (s.present d).v = s.v := rfl
@[simp] theorem State.present_I (s : State) (d : Display) : (s.present d).I = s.I := rfl
@[simp] theorem State.present_pc (s : State) (d : Display) : (s.present d).pc = s.pc := rfl
@[simp] theorem State.present_stack (s : State) (d : Display) : (s.present d).stack = s.stack := rfl
@[simp] theorem State.present_DT (s : State) (d : Display) : (s.present d).DT = s.DT := rfl
@[simp] theorem State.present_ST (s : State) (d : Display) : (s.present d).ST = s.ST := rfl
@[simp] theorem State.present_mem (s : State) (d : Display) : (s.present d).mem = s.mem := rfl
@[simp] theorem State.present_disp (s : State) (d : Display) : (s.present d).disp = d := rfl
@[simp] theorem State.present_key (s : State) (d : Display) : (s.present d).key = s.key := rfl
@[simp] theorem State.present_redraw (s : State) (d : Display) : (s.present d).redraw = true := rfl
@[simp] theorem State.present_soundActive (s : State) (d : Display) : (s.present d).soundActive = s.soundActive := rfl
@[simp] theorem State.present_fault (s : State) (d : Display) : (s.present d).fault = s.fault := rfl
@[simp] theorem State.present_params (s : State) (d : Display) : (s.present d).params = s.params := rfl
@[simp] theorem State.present_draws (s : State) (d : Display) : (s.present d).draws = s.draws := rfl
@[simp] theorem State.present_reg (s : State) (d : Display) (j : RegIdx) : (s.present d).reg j = s.reg j := rfl

@[simp] theorem State.indexPast_v (s : State) (x : RegIdx) : (s.indexPast x).v = s.v := rfl
@[simp] theorem State.indexPast_I (s : State) (x : RegIdx) : (s.indexPast x).I = s.I + BitVec.ofNat 16 (x.val + 1) := rfl
@[simp] theorem State.indexPast_pc (s : State) (x : RegIdx) : (s.indexPast x).pc = s.pc := rfl
@[simp] theorem State.indexPast_stack (s : State) (x : RegIdx) : (s.indexPast x).stack = s.stack := rfl
@[simp] theorem State.indexPast_DT (s : State) (x : RegIdx) : (s.indexPast x).DT = s.DT := rfl
@[simp] theorem State.indexPast_ST (s : State) (x : RegIdx) : (s.indexPast x).ST = s.ST := rfl
@[simp] theorem State.indexPast_mem (s : State) (x : RegIdx) : (s.indexPast x).mem = s.mem := rfl
@[simp] theorem State.indexPast_disp (s : State) (x : RegIdx) : (s.indexPast x).disp = s.disp := rfl
@[simp] theorem State.indexPast_key (s : State) (x : RegIdx) : (s.indexPast x).key = s.key := rfl
@[simp] theorem State.indexPast_redraw (s : State) (x : RegIdx) : (s.indexPast x).redraw = s.redraw := rfl
@[simp] theorem State.indexPast_soundActive (s : State) (x : RegIdx) : (s.indexPast x).soundActive = s.soundActive := rfl
@[simp] theorem State.indexPast_fault (s : State) (x : RegIdx) : (s.indexPast x).fault = s.fault := rfl
@[simp] theorem State.indexPast_params (s : State) (x : RegIdx) : (s.indexPast x).params = s.params := rfl
@[simp] theorem State.indexPast_draws (s : State) (x : RegIdx) : (s.indexPast x).draws = s.draws := rfl
@[simp] theorem State.indexPast_reg (s : State) (x : RegIdx) (j : RegIdx) : (s.indexPast x).reg j = s.reg j := rfl

@[simp] theorem timerTick_v (s : State) : (timerTick s).v = s.v := rfl
@[simp] theorem timerTick_I (s : State) : (timerTick s).I = s.I := rfl
@[simp] theorem timerTick_pc (s : State) : (timerTick s).pc = s.pc := rfl
@[simp] theorem timerTick_stack (s : State) : (timerTick s).stack = s.stack := rfl
@[simp] theorem timerTick_DT (s : State) : (timerTick s).DT = countDown s.DT := rfl
@[simp] theorem timerTick_ST (s : State) : (timerTick s).ST = countDown s.ST := rfl
@[simp] theorem timerTick_mem (s : State) : (timerTick s).mem = s.mem := rfl
@[simp] theorem timerTick_disp (s : State) : (timerTick s).disp = s.disp := rfl
@[simp] theorem timerTick_key (s : State) : (timerTick s).key = s.key := rfl
@[simp] theorem timerTick_redraw (s : State) : (timerTick s).redraw = s.redraw := rfl
@[simp] theorem timerTick_soundActive (s : State) : (timerTick s).soundActive = (s.ST != 0) := rfl
@[simp] theorem timerTick_fault (s : State) : (timerTick s).fault = s.fault := rfl
@[simp] theorem timerTick_params (s : State) : (timerTick s).params = s.params := rfl
@[simp] theorem timerTick_draws (s : State) : (timerTick s).draws = s.draws := rfl

@[simp] theorem clearRedraw_v (s : State) : (clearRedraw s).v = s.v := rfl
@[simp] theorem clearRedraw_I (s : State) : (clearRedraw s).I = s.I := rfl
@[simp] theorem clearRedraw_pc (s : State) : (clearRedraw s).pc = s.pc := rfl
@[simp] theorem clearRedraw_stack (s : State) : (clearRedraw s).stack = s.stack := rfl
@[simp] theorem clearRedraw_DT (s : State) : (clearRedraw s).DT = s.DT := rfl
@[simp] theorem clearRedraw_ST (s : State) : (clearRedraw s).ST = s.ST := rfl
@[simp] theorem clearRedraw_mem (s : State) : (clearRedraw s).mem = s.mem := rfl
@[simp] theorem clearRedraw_disp (s : State) : (clearRedraw s).disp = s.disp := rfl
@[simp] theorem clearRedraw_key (s : State) : (clearRedraw s).key = s.key := rfl
@[simp] theorem clearRedraw_redraw (s : State) : (clearRedraw s).redraw = false := rfl
@[simp] theorem clearRedraw_soundActive (s : State) : (clearRedraw s).soundActive = s.soundActive := rfl
@[simp] theorem clearRedraw_fault (s : State) : (clearRedraw s).fault = s.fault := rfl
@[simp] theorem clearRedraw_params (s : State) : (clearRedraw s).params = s.params := rfl
@[simp] theorem clearRedraw_draws (s : State) : (clearRedraw s).draws = s.draws := rfl

/-- Writing a register changes that register and no other (10_state.md R20). -/
@[simp] theorem State.setReg_reg (s : State) (x : RegIdx) (b : Byte) (j : RegIdx) :
    (s.setReg x b).reg j = if j = x then b else s.reg j := by
  by_cases h : j = x
  · subst h; simp [State.reg, State.setReg]
  · have h' : x.val ≠ j.val := fun e => h (Fin.ext e.symm)
    simp [State.reg, State.setReg, h, Vector.getElem_set_ne _ _ h']

end Sys2Proof.Machine
end

