-- ==== Sys2Proof/Laws/Ops.lean ====
section
/-! SUPPORT. What each shared operation can do, said once: ranges, skips, VF, keys, register ranges, fetch. -/

namespace Sys2Proof.Machine

open Sys2Proof.Config

/-! ### Ranges -/

theorem rangeFaults_iff (a n : Nat) : rangeFaults a n = true ↔ 0 < n ∧ 0x1000 < a + n := by
  rw [rangeFaults, decide_eq_true_iff, lastAddr]; omega

/-- In range, an access from I has its effect. -/
theorem accessAtI_ok {n : Nat} {s : State} (h : n = 0 ∨ s.I.toNat + n ≤ 0x1000) (e : State → State) :
    accessAtI n e s = .next (e s) := by
  rw [accessAtI, if_neg fun hr => by have := (rangeFaults_iff _ _).1 hr; omega]

/-- Out of range, it raises MEM_OUT_OF_RANGE with the value of I. -/
theorem accessAtI_fault {n : Nat} {s : State} (h : 0 < n ∧ 0x1000 < s.I.toNat + n) (e : State → State) :
    accessAtI n e s = .next (s.raise .memOutOfRange s.I.toNat) := by
  rw [accessAtI, if_pos ((rangeFaults_iff _ _).2 h)]

/-- Everything an access from I can answer. -/
theorem accessAtI_cases {n : Nat} {e : State → State} {s t : State} (h : accessAtI n e s = .next t) :
    ((n = 0 ∨ s.I.toNat + n ≤ 0x1000) ∧ t = e s) ∨
      (0 < n ∧ 0x1000 < s.I.toNat + n ∧ t = s.raise .memOutOfRange s.I.toNat) := by
  by_cases hr : 0 < n ∧ 0x1000 < s.I.toNat + n
  · rw [accessAtI_fault hr] at h
    exact .inr ⟨hr.1, hr.2, by injection h with h; exact h.symm⟩
  · rw [accessAtI_ok (by omega)] at h
    exact .inl ⟨by omega, by injection h with h; exact h.symm⟩

/-! ### Skips -/

theorem State.skipIf_pc (s : State) (b : Bool) : (s.skipIf b).pc = s.pc + if b then 4 else 2 := by
  cases b <;> rfl

@[simp] theorem State.skipIf_v (s : State) (b : Bool) : (s.skipIf b).v = s.v := by cases b <;> rfl
@[simp] theorem State.skipIf_I (s : State) (b : Bool) : (s.skipIf b).I = s.I := by cases b <;> rfl
@[simp] theorem State.skipIf_stack (s : State) (b : Bool) : (s.skipIf b).stack = s.stack := by cases b <;> rfl
@[simp] theorem State.skipIf_DT (s : State) (b : Bool) : (s.skipIf b).DT = s.DT := by cases b <;> rfl
@[simp] theorem State.skipIf_ST (s : State) (b : Bool) : (s.skipIf b).ST = s.ST := by cases b <;> rfl
@[simp] theorem State.skipIf_mem (s : State) (b : Bool) : (s.skipIf b).mem = s.mem := by cases b <;> rfl
@[simp] theorem State.skipIf_disp (s : State) (b : Bool) : (s.skipIf b).disp = s.disp := by cases b <;> rfl
@[simp] theorem State.skipIf_key (s : State) (b : Bool) : (s.skipIf b).key = s.key := by cases b <;> rfl
@[simp] theorem State.skipIf_redraw (s : State) (b : Bool) : (s.skipIf b).redraw = s.redraw := by cases b <;> rfl
@[simp] theorem State.skipIf_soundActive (s : State) (b : Bool) : (s.skipIf b).soundActive = s.soundActive := by cases b <;> rfl
@[simp] theorem State.skipIf_fault (s : State) (b : Bool) : (s.skipIf b).fault = s.fault := by cases b <;> rfl
@[simp] theorem State.skipIf_params (s : State) (b : Bool) : (s.skipIf b).params = s.params := by cases b <;> rfl
@[simp] theorem State.skipIf_draws (s : State) (b : Bool) : (s.skipIf b).draws = s.draws := by cases b <;> rfl
@[simp] theorem State.skipIf_reg (s : State) (b : Bool) (j : RegIdx) : (s.skipIf b).reg j = s.reg j := by
  cases b <;> rfl

/-! ### VF -/

/-- Result and flag in registers: when x is not F both are there; when it is, the order decides (42_alu.md R111). -/
theorem State.writeResultAndFlag_reg (s : State) (x : RegIdx) (r f : Byte) (j : RegIdx) :
    (s.writeResultAndFlag x r f).reg j =
      if j = VF ∧ (x = VF → s.params.vfWriteOrder = .flagLast) then f else if j = x then r else s.reg j := by
  unfold State.writeResultAndFlag
  by_cases hx : j = x <;> by_cases hf : j = VF <;> cases hp : s.params.vfWriteOrder <;> simp_all
  all_goals intro e; exact absurd e.symm ‹_›

@[simp] theorem State.writeResultAndFlag_pc (s : State) (x : RegIdx) (r f : Byte) :
    (s.writeResultAndFlag x r f).pc = s.pc := by unfold State.writeResultAndFlag; split <;> rfl
@[simp] theorem State.writeResultAndFlag_I (s : State) (x : RegIdx) (r f : Byte) :
    (s.writeResultAndFlag x r f).I = s.I := by unfold State.writeResultAndFlag; split <;> rfl
@[simp] theorem State.writeResultAndFlag_stack (s : State) (x : RegIdx) (r f : Byte) :
    (s.writeResultAndFlag x r f).stack = s.stack := by unfold State.writeResultAndFlag; split <;> rfl
@[simp] theorem State.writeResultAndFlag_DT (s : State) (x : RegIdx) (r f : Byte) :
    (s.writeResultAndFlag x r f).DT = s.DT := by unfold State.writeResultAndFlag; split <;> rfl
@[simp] theorem State.writeResultAndFlag_ST (s : State) (x : RegIdx) (r f : Byte) :
    (s.writeResultAndFlag x r f).ST = s.ST := by unfold State.writeResultAndFlag; split <;> rfl
@[simp] theorem State.writeResultAndFlag_mem (s : State) (x : RegIdx) (r f : Byte) :
    (s.writeResultAndFlag x r f).mem = s.mem := by unfold State.writeResultAndFlag; split <;> rfl
@[simp] theorem State.writeResultAndFlag_disp (s : State) (x : RegIdx) (r f : Byte) :
    (s.writeResultAndFlag x r f).disp = s.disp := by unfold State.writeResultAndFlag; split <;> rfl
@[simp] theorem State.writeResultAndFlag_key (s : State) (x : RegIdx) (r f : Byte) :
    (s.writeResultAndFlag x r f).key = s.key := by unfold State.writeResultAndFlag; split <;> rfl
@[simp] theorem State.writeResultAndFlag_redraw (s : State) (x : RegIdx) (r f : Byte) :
    (s.writeResultAndFlag x r f).redraw = s.redraw := by unfold State.writeResultAndFlag; split <;> rfl
@[simp] theorem State.writeResultAndFlag_soundActive (s : State) (x : RegIdx) (r f : Byte) :
    (s.writeResultAndFlag x r f).soundActive = s.soundActive := by unfold State.writeResultAndFlag; split <;> rfl
@[simp] theorem State.writeResultAndFlag_fault (s : State) (x : RegIdx) (r f : Byte) :
    (s.writeResultAndFlag x r f).fault = s.fault := by unfold State.writeResultAndFlag; split <;> rfl
@[simp] theorem State.writeResultAndFlag_params (s : State) (x : RegIdx) (r f : Byte) :
    (s.writeResultAndFlag x r f).params = s.params := by unfold State.writeResultAndFlag; split <;> rfl
@[simp] theorem State.writeResultAndFlag_draws (s : State) (x : RegIdx) (r f : Byte) :
    (s.writeResultAndFlag x r f).draws = s.draws := by unfold State.writeResultAndFlag; split <;> rfl

theorem toNat_flagByte (b : Bool) : (flagByte b).toNat = if b then 1 else 0 := by cases b <;> rfl

/-! ### Keys -/

/-- Vx in 0..15 names that key. -/
theorem State.keyOperand_some {s : State} {x : RegIdx} (h : (s.reg x).toNat < 16) :
    s.keyOperand x = some ⟨(s.reg x).toNat, h⟩ := dif_pos h

/-- Vx above 15 names none. -/
theorem State.keyOperand_none {s : State} {x : RegIdx} (h : 15 < (s.reg x).toNat) : s.keyOperand x = none :=
  dif_neg (by omega)

/-- The scan finds the lowest pressed key up to KEYWAIT_LAST_KEY. -/
theorem State.scanKeys_eq_some {s : State} {k : Nat} :
    s.scanKeys = some k ↔ k ≤ keywaitLast s.params.keywaitLastKey ∧
      ∃ h : k < 16, s.key[k] = true ∧ ∀ j, (hj : j < k) → s.key[j] = false := by
  rw [State.scanKeys, List.findIdx?_eq_some_iff_getElem]
  constructor
  · rintro ⟨h, hk, hlt⟩
    rw [List.length_take, Vector.length_toList] at h
    refine ⟨by omega, by omega, by simpa using hk, fun j hj => ?_⟩
    simpa using hlt j hj
  · rintro ⟨hl, h, hk, hlt⟩
    refine ⟨by rw [List.length_take, Vector.length_toList]; omega, by simpa using hk, fun j hj => ?_⟩
    simpa using hlt j hj

/-- The scan finds nothing when every key up to KEYWAIT_LAST_KEY is released. -/
theorem State.scanKeys_eq_none {s : State} :
    s.scanKeys = none ↔ ∀ k : Fin 16, k.val ≤ keywaitLast s.params.keywaitLastKey → s.key[k] = false := by
  rw [State.scanKeys, List.findIdx?_eq_none_iff]
  constructor
  · intro h k hk
    have hm : s.key[k] ∈ s.key.toList.take (keywaitLast s.params.keywaitLastKey + 1) := by
      have hl : k.val < (s.key.toList.take (keywaitLast s.params.keywaitLastKey + 1)).length := by
        rw [List.length_take, Vector.length_toList]; omega
      refine List.mem_iff_getElem.2 ⟨k.val, hl, ?_⟩
      rw [List.getElem_take, Vector.getElem_toList, Fin.getElem_fin]
    simpa using h _ hm
  · intro h b hb
    obtain ⟨j, hj, rfl⟩ := List.mem_iff_getElem.1 hb
    rw [List.length_take, Vector.length_toList] at hj
    simpa using h ⟨j, by omega⟩ (by show j ≤ _; omega)

/-! ### Register ranges -/

@[simp] theorem State.length_regsUpTo (s : State) (x : RegIdx) : (s.regsUpTo x).length = x.val + 1 := by
  rw [State.regsUpTo, List.length_take, Vector.length_toList]; omega

/-- The k-th byte FX55 stores is V[k]. -/
theorem State.getD_regsUpTo {s : State} {x k : RegIdx} (h : k ≤ x) (d : Byte) :
    (s.regsUpTo x).getD k.val d = s.reg k := by
  have hk : k.val < (s.regsUpTo x).length := by
    rw [State.length_regsUpTo]; exact Nat.lt_succ_of_le h
  rw [List.getD_eq_getElem _ _ hk]
  simp [State.regsUpTo, State.reg]

/-- FX65's registers: the first `n` from memory, the others as before. -/
theorem getElem_loadRegs (m : Memory) (a : Nat) (v : Vector Byte 16) (n : Nat) (j : RegIdx) :
    (loadRegs m a v n)[j] = if j.val < n then Memory.read m (a + j.val) else v[j] := by
  induction n with
  | zero => simp [loadRegs]
  | succ n ih =>
    have hj := j.isLt
    simp only [loadRegs, Fin.getElem_fin, Vector.getElem_setIfInBounds] at ih ⊢
    by_cases e : n = j.val
    · subst e; simp
    · rw [if_neg e, ih]
      by_cases hn : j.val < n
      · rw [if_pos hn, if_pos (by omega)]
      · rw [if_neg hn, if_neg (by omega)]

/-! ### Fetch -/

/-- Where both bytes lie in memory, fetch reads them big-endian (20_memory.md R42). -/
theorem State.fetch_some {s : State} (h : s.pc.toNat ≤ 0xFFE) :
    s.fetch = some (wordOfBytes (Memory.read s.mem s.pc.toNat) (Memory.read s.mem (s.pc.toNat + 1))) :=
  if_pos (decide_eq_true h)

/-- Elsewhere it reads nothing. -/
theorem State.fetch_none {s : State} (h : 0xFFE < s.pc.toNat) : s.fetch = none :=
  if_neg (by simp only [State.fetchable, decide_eq_true_eq]; omega)

end Sys2Proof.Machine
end

