-- ==== Sys2Proof/Laws/PerInstr.lean ====
section
/-! SUPPORT. Per instruction: the encoder's word matches its row of the opcode map (30_encoding.md R71), one
lemma per constructor. -/

namespace Sys2Proof.Machine

theorem formNNN_mask (op : BitVec 4) (nnn : Addr12) : formNNN op nnn &&& 0xF000 = formNNN op 0 := by
  refine BitVec.eq_of_getLsbD_eq fun i hi => ?_
  rw [BitVec.getLsbD_and, getLsbD_formNNN, getLsbD_formNNN]
  interval_cases i <;> simp

theorem formXKK_mask (op : BitVec 4) (x : RegIdx) (kk : Byte) : formXKK op x kk &&& 0xF000 = formNNN op 0 := by
  refine BitVec.eq_of_getLsbD_eq fun i hi => ?_
  rw [BitVec.getLsbD_and, getLsbD_formXKK, getLsbD_formNNN]
  interval_cases i <;> simp

theorem formXKK_mask_low (op : BitVec 4) (x : RegIdx) (kk : Byte) :
    formXKK op x kk &&& 0xF0FF = formXKK op 0 kk := by
  refine BitVec.eq_of_getLsbD_eq fun i hi => ?_
  rw [BitVec.getLsbD_and, getLsbD_formXKK, getLsbD_formXKK]
  interval_cases i <;> simp

theorem formXYN_mask (op : BitVec 4) (x y : RegIdx) (n : BitVec 4) : formXYN op x y n &&& 0xF000 = formNNN op 0 := by
  refine BitVec.eq_of_getLsbD_eq fun i hi => ?_
  rw [BitVec.getLsbD_and, getLsbD_formXYN, getLsbD_formNNN]
  interval_cases i <;> simp

theorem formXYN_mask_low (op : BitVec 4) (x y : RegIdx) (n : BitVec 4) :
    formXYN op x y n &&& 0xF00F = formXYN op 0 0 n := by
  refine BitVec.eq_of_getLsbD_eq fun i hi => ?_
  rw [BitVec.getLsbD_and, getLsbD_formXYN, getLsbD_formXYN]
  interval_cases i <;> simp

end Sys2Proof.Machine

namespace Sys2Proof.Laws.MatchesRow

open Sys2Proof.Machine

/-- The mask and match of an instruction's row of R71; an unrecognized word has no row. -/
def row : Instr → Option (Word × Word)
  | .sys _ => some (0xF000, 0x0000)
  | .unrecognized _ => none
  | .cls => some (0xFFFF, 0x00E0)
  | .ret => some (0xFFFF, 0x00EE)
  | .jp _ => some (0xF000, 0x1000)
  | .call _ => some (0xF000, 0x2000)
  | .seImm _ _ => some (0xF000, 0x3000)
  | .sneImm _ _ => some (0xF000, 0x4000)
  | .seReg _ _ => some (0xF00F, 0x5000)
  | .ldImm _ _ => some (0xF000, 0x6000)
  | .addImm _ _ => some (0xF000, 0x7000)
  | .ldReg _ _ => some (0xF00F, 0x8000)
  | .orReg _ _ => some (0xF00F, 0x8001)
  | .andReg _ _ => some (0xF00F, 0x8002)
  | .xorReg _ _ => some (0xF00F, 0x8003)
  | .addReg _ _ => some (0xF00F, 0x8004)
  | .subReg _ _ => some (0xF00F, 0x8005)
  | .shrReg _ _ => some (0xF00F, 0x8006)
  | .subnReg _ _ => some (0xF00F, 0x8007)
  | .shlReg _ _ => some (0xF00F, 0x800E)
  | .sneReg _ _ => some (0xF00F, 0x9000)
  | .ldI _ => some (0xF000, 0xA000)
  | .jpV0 _ => some (0xF000, 0xB000)
  | .rnd _ _ => some (0xF000, 0xC000)
  | .drw _ _ _ => some (0xF000, 0xD000)
  | .skp _ => some (0xF0FF, 0xE09E)
  | .sknp _ => some (0xF0FF, 0xE0A1)
  | .ldVxDt _ => some (0xF0FF, 0xF007)
  | .ldVxK _ => some (0xF0FF, 0xF00A)
  | .ldDtVx _ => some (0xF0FF, 0xF015)
  | .ldStVx _ => some (0xF0FF, 0xF018)
  | .addIVx _ => some (0xF0FF, 0xF01E)
  | .ldFVx _ => some (0xF0FF, 0xF029)
  | .ldBVx _ => some (0xF0FF, 0xF033)
  | .ldMemVx _ => some (0xF0FF, 0xF055)
  | .ldVxMem _ => some (0xF0FF, 0xF065)

/-- The encoded word matches the row. -/
def Statement (i : Instr) : Prop := ∀ r, row i = some r → encode i &&& r.1 = r.2

theorem sys (nnn : Addr12) : Statement (.sys nnn) := by
  rintro r ⟨⟩; exact (formNNN_mask _ nnn).trans (by decide)

theorem unrecognized (w : Word) : Statement (.unrecognized w) := by
  rintro r ⟨⟩

theorem cls : Statement (.cls) := by
  rintro r ⟨⟩; decide

theorem ret : Statement (.ret) := by
  rintro r ⟨⟩; decide

theorem jp (nnn : Addr12) : Statement (.jp nnn) := by
  rintro r ⟨⟩; exact (formNNN_mask _ nnn).trans (by decide)

theorem call (nnn : Addr12) : Statement (.call nnn) := by
  rintro r ⟨⟩; exact (formNNN_mask _ nnn).trans (by decide)

theorem seImm (x : RegIdx) (kk : Byte) : Statement (.seImm x kk) := by
  rintro r ⟨⟩; exact (formXKK_mask _ x kk).trans (by decide)

theorem sneImm (x : RegIdx) (kk : Byte) : Statement (.sneImm x kk) := by
  rintro r ⟨⟩; exact (formXKK_mask _ x kk).trans (by decide)

theorem seReg (x : RegIdx) (y : RegIdx) : Statement (.seReg x y) := by
  rintro r ⟨⟩; exact (formXYN_mask_low _ x y _).trans (by decide)

theorem ldImm (x : RegIdx) (kk : Byte) : Statement (.ldImm x kk) := by
  rintro r ⟨⟩; exact (formXKK_mask _ x kk).trans (by decide)

theorem addImm (x : RegIdx) (kk : Byte) : Statement (.addImm x kk) := by
  rintro r ⟨⟩; exact (formXKK_mask _ x kk).trans (by decide)

theorem ldReg (x : RegIdx) (y : RegIdx) : Statement (.ldReg x y) := by
  rintro r ⟨⟩; exact (formXYN_mask_low _ x y _).trans (by decide)

theorem orReg (x : RegIdx) (y : RegIdx) : Statement (.orReg x y) := by
  rintro r ⟨⟩; exact (formXYN_mask_low _ x y _).trans (by decide)

theorem andReg (x : RegIdx) (y : RegIdx) : Statement (.andReg x y) := by
  rintro r ⟨⟩; exact (formXYN_mask_low _ x y _).trans (by decide)

theorem xorReg (x : RegIdx) (y : RegIdx) : Statement (.xorReg x y) := by
  rintro r ⟨⟩; exact (formXYN_mask_low _ x y _).trans (by decide)

theorem addReg (x : RegIdx) (y : RegIdx) : Statement (.addReg x y) := by
  rintro r ⟨⟩; exact (formXYN_mask_low _ x y _).trans (by decide)

theorem subReg (x : RegIdx) (y : RegIdx) : Statement (.subReg x y) := by
  rintro r ⟨⟩; exact (formXYN_mask_low _ x y _).trans (by decide)

theorem shrReg (x : RegIdx) (y : RegIdx) : Statement (.shrReg x y) := by
  rintro r ⟨⟩; exact (formXYN_mask_low _ x y _).trans (by decide)

theorem subnReg (x : RegIdx) (y : RegIdx) : Statement (.subnReg x y) := by
  rintro r ⟨⟩; exact (formXYN_mask_low _ x y _).trans (by decide)

theorem shlReg (x : RegIdx) (y : RegIdx) : Statement (.shlReg x y) := by
  rintro r ⟨⟩; exact (formXYN_mask_low _ x y _).trans (by decide)

theorem sneReg (x : RegIdx) (y : RegIdx) : Statement (.sneReg x y) := by
  rintro r ⟨⟩; exact (formXYN_mask_low _ x y _).trans (by decide)

theorem ldI (nnn : Addr12) : Statement (.ldI nnn) := by
  rintro r ⟨⟩; exact (formNNN_mask _ nnn).trans (by decide)

theorem jpV0 (nnn : Addr12) : Statement (.jpV0 nnn) := by
  rintro r ⟨⟩; exact (formNNN_mask _ nnn).trans (by decide)

theorem rnd (x : RegIdx) (kk : Byte) : Statement (.rnd x kk) := by
  rintro r ⟨⟩; exact (formXKK_mask _ x kk).trans (by decide)

theorem drw (x : RegIdx) (y : RegIdx) (n : Fin 16) : Statement (.drw x y n) := by
  rintro r ⟨⟩; exact (formXYN_mask _ x y _).trans (by decide)

theorem skp (x : RegIdx) : Statement (.skp x) := by
  rintro r ⟨⟩; exact (formXKK_mask_low _ x _).trans (by decide)

theorem sknp (x : RegIdx) : Statement (.sknp x) := by
  rintro r ⟨⟩; exact (formXKK_mask_low _ x _).trans (by decide)

theorem ldVxDt (x : RegIdx) : Statement (.ldVxDt x) := by
  rintro r ⟨⟩; exact (formXKK_mask_low _ x _).trans (by decide)

theorem ldVxK (x : RegIdx) : Statement (.ldVxK x) := by
  rintro r ⟨⟩; exact (formXKK_mask_low _ x _).trans (by decide)

theorem ldDtVx (x : RegIdx) : Statement (.ldDtVx x) := by
  rintro r ⟨⟩; exact (formXKK_mask_low _ x _).trans (by decide)

theorem ldStVx (x : RegIdx) : Statement (.ldStVx x) := by
  rintro r ⟨⟩; exact (formXKK_mask_low _ x _).trans (by decide)

theorem addIVx (x : RegIdx) : Statement (.addIVx x) := by
  rintro r ⟨⟩; exact (formXKK_mask_low _ x _).trans (by decide)

theorem ldFVx (x : RegIdx) : Statement (.ldFVx x) := by
  rintro r ⟨⟩; exact (formXKK_mask_low _ x _).trans (by decide)

theorem ldBVx (x : RegIdx) : Statement (.ldBVx x) := by
  rintro r ⟨⟩; exact (formXKK_mask_low _ x _).trans (by decide)

theorem ldMemVx (x : RegIdx) : Statement (.ldMemVx x) := by
  rintro r ⟨⟩; exact (formXKK_mask_low _ x _).trans (by decide)

theorem ldVxMem (x : RegIdx) : Statement (.ldVxMem x) := by
  rintro r ⟨⟩; exact (formXKK_mask_low _ x _).trans (by decide)

end Sys2Proof.Laws.MatchesRow
end

