-- ==== Sys2Proof/Laws/Raster.lean ====
section
/-! SUPPORT. Pixels: reading after a write, a blank display, displays equal pixel by pixel, and what drawing a sprite
row and a whole sprite does to each pixel and to the collision flag. -/

namespace Sys2Proof.Machine

/-- Writing a pixel changes that pixel and no other. -/
theorem pixel_setPixel (d : Display) (col : Fin 64) (row : Fin 32) (b : Bool) (col' : Fin 64) (row' : Fin 32) :
    pixel (setPixel d col row b) col' row' = if col' = col ∧ row' = row then b else pixel d col' row' := by
  by_cases hr : row' = row
  · subst hr
    by_cases hc : col' = col
    · subst hc; simp [pixel, setPixel]
    · have h : col.val ≠ col'.val := fun e => hc (Fin.ext e.symm)
      simp [pixel, setPixel, hc, Vector.getElem_set_ne _ _ h]
  · have h : row.val ≠ row'.val := fun e => hr (Fin.ext e.symm)
    simp [pixel, setPixel, hr, Vector.getElem_set_ne _ _ h]

@[simp] theorem pixel_blankDisplay (col : Fin 64) (row : Fin 32) : pixel blankDisplay col row = false := by
  simp [pixel, blankDisplay]

/-- Displays that agree at every pixel are equal. -/
theorem Display.ext {d d' : Display} (h : ∀ col row, pixel d col row = pixel d' col row) : d = d' :=
  Vector.ext fun r hr => Vector.ext fun c hc => h ⟨c, hc⟩ ⟨r, hr⟩

/-- Toggling flips one pixel. -/
theorem pixel_toggle (col : Fin 64) (row : Fin 32) (g : Drawing) (col' : Fin 64) (row' : Fin 32) :
    pixel (toggle col row g).disp col' row' =
      (pixel g.disp col' row' ^^ decide (col' = col ∧ row' = row)) := by
  rw [toggle, pixel_setPixel]
  by_cases h : col' = col ∧ row' = row
  · obtain ⟨rfl, rfl⟩ := h; simp
  · simp [h]

/-! ### Drawing -/

/-- Whether a sprite byte at column `x0` has a set bit at a column, among the bit offsets from `b` on. -/
def rowBit (bits : Byte) (x0 b k : Nat) (col : Fin 64) : Bool :=
  decide (x0 + b ≤ col.val ∧ col.val < x0 + b + k) && bits.getLsbD (7 - (col.val - x0))

/-- The bit at offset `b`, then the rest. -/
theorem rowBit_succ (bits : Byte) (x0 b k : Nat) (col : Fin 64) :
    rowBit bits x0 b (k + 1) col =
      ((decide (col.val = x0 + b) && bits.getLsbD (7 - b)) || rowBit bits x0 (b + 1) k col) := by
  unfold rowBit
  by_cases e : col.val = x0 + b
  · simp [e]
  · have : (x0 + b ≤ col.val ∧ col.val < x0 + b + (k + 1)) ↔ (x0 + (b + 1) ≤ col.val ∧ col.val < x0 + (b + 1) + k) := by
      omega
    simp [e, this]

/-- One sprite byte XORs its set bits into its row, clipped at the right edge (44_display.md R143). -/
theorem pixel_drawRow (bits : Byte) (x0 : Nat) (row : Fin 32) (k b : Nat) (g : Drawing) (col : Fin 64) (r : Fin 32) :
    pixel (drawRow bits x0 row k b g).disp col r =
      (pixel g.disp col r ^^ (decide (r = row) && rowBit bits x0 b k col)) := by
  induction k generalizing b g with
  | zero =>
    have e : rowBit bits x0 b 0 col = false := by
      simp only [rowBit, Bool.and_eq_false_iff, decide_eq_false_iff_not]; left; omega
    simp [drawRow, e]
  | succ k ih =>
    rw [drawRow, rowBit_succ]
    split
    · rename_i h
      rw [ih]
      have hb : rowBit bits x0 (b + 1) k col = true → col.val ≠ x0 + b := by
        simp only [rowBit, Bool.and_eq_true, decide_eq_true_eq]; omega
      split
      · rename_i hs
        rw [pixel_toggle]
        by_cases e : col.val = x0 + b
        · have : col = ⟨x0 + b, h⟩ := Fin.ext e
          have hf : rowBit bits x0 (b + 1) k col = false := by
            cases hh : rowBit bits x0 (b + 1) k col
            · rfl
            · exact absurd e (hb hh)
          subst this
          simp [hs, hf]
        · have : col ≠ ⟨x0 + b, h⟩ := fun h => e (by rw [h])
          simp [e, this]
      · rename_i hs; simp [hs]
    · rename_i h
      have e : col.val ≠ x0 + b := by omega
      have : rowBit bits x0 (b + 1) k col = false := by
        simp only [rowBit, Bool.and_eq_false_iff, decide_eq_false_iff_not]; left; omega
      simp [e, this]

/-- One sprite byte collides where a set bit meets a pixel that was on (44_display.md R143, R144). -/
theorem collision_drawRow (bits : Byte) (x0 : Nat) (row : Fin 32) (k b : Nat) (g : Drawing) :
    (drawRow bits x0 row k b g).collision = true ↔
      g.collision = true ∨ ∃ col, pixel g.disp col row = true ∧ rowBit bits x0 b k col = true := by
  induction k generalizing b g with
  | zero =>
    have e : ∀ col, rowBit bits x0 b 0 col = false := fun col => by
      simp only [rowBit, Bool.and_eq_false_iff, decide_eq_false_iff_not]; left; omega
    simp [drawRow, e]
  | succ k ih =>
    rw [drawRow]
    split
    · rename_i h
      rw [ih]
      have hr : ∀ col, rowBit bits x0 (b + 1) k col = true → col ≠ ⟨x0 + b, h⟩ := by
        intro col hc e
        simp only [rowBit, Bool.and_eq_true, decide_eq_true_eq, e] at hc; omega
      split
      · rename_i hs
        constructor
        · rintro (hc | ⟨col, hp, hc⟩)
          · simp only [toggle, Bool.or_eq_true] at hc
            rcases hc with hc | hc
            · exact .inl hc
            · exact .inr ⟨_, hc, by rw [rowBit_succ]; simp [hs]⟩
          · rw [pixel_toggle] at hp
            have := hr col hc
            exact .inr ⟨col, by simpa [this] using hp, by rw [rowBit_succ, hc, Bool.or_true]⟩
        · rintro (hc | ⟨col, hp, hc⟩)
          · exact .inl (by simp [toggle, hc])
          · rw [rowBit_succ] at hc
            by_cases e : col = ⟨x0 + b, h⟩
            · subst e; exact .inl (by simp [toggle, hp])
            · have e' : col.val ≠ x0 + b := fun hh => e (Fin.ext hh)
              refine .inr ⟨col, ?_, by simpa [e'] using hc⟩
              rw [pixel_toggle]; simp [e, hp]
      · rename_i hs
        simp [rowBit_succ, hs]
    · rename_i h
      have : ∀ col, rowBit bits x0 b (k + 1) col = false := by
        intro col
        simp only [rowBit, Bool.and_eq_false_iff, decide_eq_false_iff_not]; left; omega
      simp [this]

/-- Whether the rows from `r` on of a sprite at (x0, y0) have a set bit at a pixel. -/
def spriteRowsBit (m : Memory) (a x0 y0 r k : Nat) (col : Fin 64) (row : Fin 32) : Bool :=
  decide (y0 + r ≤ row.val ∧ row.val < y0 + r + k) && rowBit (Memory.read m (a + (row.val - y0))) x0 0 8 col

/-- Row `r`, then the rest. -/
theorem spriteRowsBit_succ (m : Memory) (a x0 y0 r k : Nat) (col : Fin 64) (row : Fin 32) :
    spriteRowsBit m a x0 y0 r (k + 1) col row =
      ((decide (row.val = y0 + r) && rowBit (Memory.read m (a + r)) x0 0 8 col) ||
        spriteRowsBit m a x0 y0 (r + 1) k col row) := by
  unfold spriteRowsBit
  by_cases e : row.val = y0 + r
  · simp [e]
  · have : (y0 + r ≤ row.val ∧ row.val < y0 + r + (k + 1)) ↔ (y0 + (r + 1) ≤ row.val ∧ row.val < y0 + (r + 1) + k) := by
      omega
    simp [e, this]

/-- The rows XOR their set bits into the display, clipped at both edges (44_display.md R143). -/
theorem pixel_drawRows (m : Memory) (a x0 y0 k r : Nat) (g : Drawing) (col : Fin 64) (row : Fin 32) :
    pixel (drawRows m a x0 y0 k r g).disp col row =
      (pixel g.disp col row ^^ spriteRowsBit m a x0 y0 r k col row) := by
  induction k generalizing r g with
  | zero =>
    have e : spriteRowsBit m a x0 y0 r 0 col row = false := by
      simp only [spriteRowsBit, Bool.and_eq_false_iff, decide_eq_false_iff_not]; left; omega
    simp [drawRows, e]
  | succ k ih =>
    rw [drawRows, spriteRowsBit_succ]
    split
    · rename_i h
      rw [ih, pixel_drawRow]
      by_cases e : row.val = y0 + r
      · have e' : row = ⟨y0 + r, h⟩ := Fin.ext e
        have hf : spriteRowsBit m a x0 y0 (r + 1) k col row = false := by
          simp only [spriteRowsBit, Bool.and_eq_false_iff, decide_eq_false_iff_not]; left; omega
        rw [hf]; simp [e']
      · have e' : row ≠ ⟨y0 + r, h⟩ := fun h => e (by rw [h])
        simp [e, e']
    · rename_i h
      have e : row.val ≠ y0 + r := by omega
      have : spriteRowsBit m a x0 y0 (r + 1) k col row = false := by
        simp only [spriteRowsBit, Bool.and_eq_false_iff, decide_eq_false_iff_not]; left; omega
      simp [e, this]

/-- The rows collide where a set bit meets a pixel that was on before any of them (44_display.md R143, R144). -/
theorem collision_drawRows (m : Memory) (a x0 y0 k r : Nat) (g : Drawing) :
    (drawRows m a x0 y0 k r g).collision = true ↔
      g.collision = true ∨
        ∃ col row, pixel g.disp col row = true ∧ spriteRowsBit m a x0 y0 r k col row = true := by
  induction k generalizing r g with
  | zero =>
    have e : ∀ col row, spriteRowsBit m a x0 y0 r 0 col row = false := fun col row => by
      simp only [spriteRowsBit, Bool.and_eq_false_iff, decide_eq_false_iff_not]; left; omega
    simp [drawRows, e]
  | succ k ih =>
    rw [drawRows]
    split
    · rename_i h
      rw [ih, collision_drawRow]
      have off : ∀ col row, spriteRowsBit m a x0 y0 (r + 1) k col row = true → row ≠ ⟨y0 + r, h⟩ := by
        intro col row hs e
        simp only [spriteRowsBit, Bool.and_eq_true, decide_eq_true_eq, e] at hs; omega
      constructor
      · rintro ((hc | ⟨col, hp, hb⟩) | ⟨col, row, hp, hs⟩)
        · exact .inl hc
        · exact .inr ⟨col, _, hp, by rw [spriteRowsBit_succ]; simp [hb]⟩
        · rw [pixel_drawRow] at hp
          exact .inr ⟨col, row, by simpa [off col row hs] using hp, by rw [spriteRowsBit_succ, hs, Bool.or_true]⟩
      · rintro (hc | ⟨col, row, hp, hs⟩)
        · exact .inl (.inl hc)
        · rw [spriteRowsBit_succ] at hs
          by_cases e : row = ⟨y0 + r, h⟩
          · refine .inl (.inr ⟨col, e ▸ hp, ?_⟩)
            have hf : spriteRowsBit m a x0 y0 (r + 1) k col row = false := by
              cases hh : spriteRowsBit m a x0 y0 (r + 1) k col row
              · rfl
              · exact absurd e (off _ _ hh)
            rw [hf] at hs; simp_all
          · have e' : row.val ≠ y0 + r := fun hh => e (Fin.ext hh)
            refine .inr ⟨col, row, ?_, by simpa [e'] using hs⟩
            rw [pixel_drawRow]; simp [e, hp]
    · rename_i h
      have : ∀ col row, spriteRowsBit m a x0 y0 r (k + 1) col row = false := by
        intro col row
        simp only [spriteRowsBit, Bool.and_eq_false_iff, decide_eq_false_iff_not]; left; omega
      simp [this]

end Sys2Proof.Machine
end

