-- ==== Sys2Proof/Laws/Step.lean ====
section
/-! SUPPORT. What a Step can do, said once, and the placing of a word where it fetches. -/

namespace Sys2Proof.Machine

/-- Everything that leads a Step to a next state: a fetch fault, or the decoded instruction. -/
theorem step_cases {s t : State} (h : step s = .next t) :
    s.fault = none ∧
      ((0xFFE < s.pc.toNat ∧ t = s.raise .fetchOutOfRange s.pc.toNat) ∨
        (s.pc.toNat ≤ 0xFFE ∧ ∃ w, s.fetch = some w ∧
          exec (decodeWord s.params.skipRRDecode w) s = .next t)) := by
  unfold step at h
  cases hf : s.fault with
  | some r => simp [hf] at h
  | none =>
    refine ⟨rfl, ?_⟩
    rw [hf] at h
    by_cases hp : s.pc.toNat ≤ 0xFFE
    · obtain ⟨w, hw⟩ : ∃ w, s.fetch = some w := ⟨_, State.fetch_some hp⟩
      rw [hw] at h
      exact .inr ⟨hp, w, hw, h⟩
    · rw [State.fetch_none (by omega)] at h
      injection h with h
      exact .inl ⟨by omega, h.symm⟩

/-- A word placed at `pc` is the word the next fetch reads. -/
theorem State.fetch_placeAtPc {s : State} (hm : Memory.wf s.mem) (hp : s.pc.toNat ≤ 0xFFE) (w : Word) :
    (s.placeAtPc w).fetch = some w := by
  have e : s.placeAtPc w = s.setMem (Memory.writeBytes s.mem s.pc.toNat [highByte w, lowByte w]) :=
    if_pos (decide_eq_true hp)
  have hr := Memory.read_writeBytes hm (a := s.pc.toNat) (bs := [highByte w, lowByte w])
    (by simp [lastAddr]; omega)
  rw [e, State.fetch_some (by simpa using hp)]
  simp only [State.setMem_mem, State.setMem_pc, hr, List.length_cons, List.length_nil]
  rw [if_pos (by omega), if_pos (by omega)]
  simp

/-! ### Runs and frames, one Step at a time -/

theorem run_zero (s : State) : Host.Core.run Sys2Proof.core 0 s = .next s := rfl

/-- One Step, then the rest of the run. -/
theorem run_succ {s t : State} (h : step s = .next t) (k : Nat) :
    Host.Core.run Sys2Proof.core (k + 1) s = Host.Core.run Sys2Proof.core k t := by
  have e : Sys2Proof.core.step s = .next t := h
  simp only [Host.Core.run, e]

/-- A Step that stops ends the run. -/
theorem run_succ_fault {s : State} {r : Fault} (h : step s = .fault r) (k : Nat) :
    Host.Core.run Sys2Proof.core (k + 1) s = .fault r := by
  have e : Sys2Proof.core.step s = .fault r := h
  simp only [Host.Core.run, e]

/-- An unfaulted Step of a frame, then the rest of the frame. -/
theorem frameSteps_succ {s t : State} (h : step s = .next t) (ht : t.fault = none) (k : Nat) :
    frameSteps (k + 1) s = frameSteps k t := by
  simp only [frameSteps, h, ht, if_true]

/-- A Step that faults ends the frame. -/
theorem frameSteps_succ_fault {s t : State} (h : step s = .next t) (ht : t.fault ≠ none) (k : Nat) :
    frameSteps (k + 1) s = .next t := by
  simp only [frameSteps, h, if_neg ht]

end Sys2Proof.Machine
end

