-- ==== Sys2Proof/Tests/Slice0.lean ====
section
/-! SUPPORT. Small tests: decoding, well-formedness, one or two Steps per instruction with the expected results of
95_test_vectors.md (T and E numbers), and a witness for the hypotheses of every statement that has some. -/

namespace Sys2Proof.Tests

open Sys2Proof.Machine Sys2Proof.Safety Sys2Proof.Config

/-! ### Helpers -/

/-- A view of the next state an outcome holds. -/
def view {α : Type} (f : State → α) : Host.Outcome State Fault Refusal → Option α
  | .next t => some (f t)
  | .fault _ => none
  | .refused _ => none

/-- An outcome with a view is a next state. -/
theorem next_of_view {o : Host.Outcome State Fault Refusal} (h : (view (fun _ => ()) o).isSome = true) :
    ∃ t, o = .next t := by
  cases o with
  | next t => exact ⟨t, rfl⟩
  | fault r => cases h
  | refused r => cases h

/-- A new machine with one word at 0x200. -/
def holding (w : Nat) : State := State.reset.withFetchWord 16 w

/-- Set some registers. -/
def withRegs (rs : List (RegIdx × Byte)) (s : State) : State := rs.foldl (fun s r => s.setReg r.1 r.2) s

/-- Set I, and some bytes of memory from there. -/
def withI (a : Word) (bs : List Byte) (s : State) : State :=
  (s.setI a).setMem (Memory.writeBytes s.mem a.toNat bs)

/-- Set the parameters. -/
def withParams (p : Params) (s : State) : State := { s with params := p }

/-- Turn on one pixel. -/
def withPixel (col : Fin 64) (row : Fin 32) (s : State) : State :=
  { s with disp := setPixel s.disp col row true }

/-- Turn on every pixel. -/
def lit (s : State) : State := { s with disp := Vector.replicate 32 (Vector.replicate 64 true) }

/-- The bytes at some addresses. -/
def bytes (as : List Nat) (s : State) : List Byte := as.map (Memory.read s.mem)

/-! ### Decoding: words written out bit by bit (30_encoding.md R61, R71) -/

theorem test_decode_group0 : decodeWord .strict 0b0000000011100000#16 = .cls ∧
    decodeWord .strict 0b0000000011101110#16 = .ret ∧
    decodeWord .strict 0b0000000111100000#16 = .sys 0x1E0 := by decide

theorem test_decode_address_forms : decodeWord .strict 0b0001001000110100#16 = .jp 0x234 ∧
    decodeWord .strict 0b0010001000110100#16 = .call 0x234 ∧
    decodeWord .strict 0b1010001000110100#16 = .ldI 0x234 ∧
    decodeWord .strict 0b1011001000110100#16 = .jpV0 0x234 := by decide

theorem test_decode_byte_forms : decodeWord .strict 0b0011010000101010#16 = .seImm 4 0x2A ∧
    decodeWord .strict 0b0100010000101010#16 = .sneImm 4 0x2A ∧
    decodeWord .strict 0b0110010000101010#16 = .ldImm 4 0x2A ∧
    decodeWord .strict 0b0111010000101010#16 = .addImm 4 0x2A ∧
    decodeWord .strict 0b1100010000101010#16 = .rnd 4 0x2A := by decide

theorem test_decode_register_forms : decodeWord .strict 0b0101101010110000#16 = .seReg 10 11 ∧
    decodeWord .strict 0b1001101010110000#16 = .sneReg 10 11 ∧
    decodeWord .strict 0b1101101010110101#16 = .drw 10 11 5 := by decide

theorem test_decode_group8 : decodeWord .strict 0b1000101010110000#16 = .ldReg 10 11 ∧
    decodeWord .strict 0b1000101010110001#16 = .orReg 10 11 ∧
    decodeWord .strict 0b1000101010110010#16 = .andReg 10 11 ∧
    decodeWord .strict 0b1000101010110011#16 = .xorReg 10 11 ∧
    decodeWord .strict 0b1000101010110100#16 = .addReg 10 11 ∧
    decodeWord .strict 0b1000101010110101#16 = .subReg 10 11 ∧
    decodeWord .strict 0b1000101010110110#16 = .shrReg 10 11 ∧
    decodeWord .strict 0b1000101010110111#16 = .subnReg 10 11 ∧
    decodeWord .strict 0b1000101010111110#16 = .shlReg 10 11 := by decide

theorem test_decode_groupE : decodeWord .strict 0b1110001110011110#16 = .skp 3 ∧
    decodeWord .strict 0b1110001110100001#16 = .sknp 3 := by decide

theorem test_decode_groupF : decodeWord .strict 0b1111001100000111#16 = .ldVxDt 3 ∧
    decodeWord .strict 0b1111001100001010#16 = .ldVxK 3 ∧
    decodeWord .strict 0b1111001100010101#16 = .ldDtVx 3 ∧
    decodeWord .strict 0b1111001100011000#16 = .ldStVx 3 ∧
    decodeWord .strict 0b1111001100011110#16 = .addIVx 3 ∧
    decodeWord .strict 0b1111001100101001#16 = .ldFVx 3 ∧
    decodeWord .strict 0b1111001100110011#16 = .ldBVx 3 ∧
    decodeWord .strict 0b1111001101010101#16 = .ldMemVx 3 ∧
    decodeWord .strict 0b1111001101100101#16 = .ldVxMem 3 := by decide

/-- T8 to T13: the unrecognized words, and the parameter of groups 5 and 9. -/
theorem test_decode_unrecognized : decodeWord .strict 0x8008 = .unrecognized 0x8008 ∧
    decodeWord .strict 0xE0FF = .unrecognized 0xE0FF ∧ decodeWord .strict 0xF0FF = .unrecognized 0xF0FF ∧
    decodeWord .strict 0x5121 = .unrecognized 0x5121 ∧ decodeWord .ignoreLowNibble 0x5121 = .seReg 1 2 ∧
    decodeWord .strict 0x9121 = .unrecognized 0x9121 ∧ decodeWord .ignoreLowNibble 0x9121 = .sneReg 1 2 := by
  decide

/-- The encoder gives the words of the spec's programs P1 to P6 and of E19E. -/
theorem test_encode : encode (.ldImm 0 5) = 0x6005 ∧ encode (.call 0x210) = 0x2210 ∧
    encode (.drw 0 0 5) = 0xD005 ∧ encode (.subnReg 5 1) = 0x8517 ∧ encode (.ldVxK 0) = 0xF00A ∧
    encode (.skp 1) = 0xE19E := by decide

theorem test_decode_bytes : decode .strict [0x60, 0x05, 0x70] = .ok (.ldImm 0 5, [0x70]) ∧
    decode .strict [0x60] = .error .truncated := by decide

theorem test_decodeTableWord : decodeTableWord 16 0xF065 = some (.ldVxMem 0) ∧
    decodeTableWord 16 0x0000 = some (.sys 0) := by decide

/-! ### Well-formedness: an ill-formed term for each check -/

theorem test_wellFormed_refuses : (Instr.sys 0x0E0).wellFormed .strict = false ∧
    (Instr.sys 0x0EE).wellFormed .strict = false ∧
    (Instr.unrecognized 0x6005).wellFormed .strict = false ∧
    (Instr.unrecognized 0x0123).wellFormed .strict = false ∧
    (Instr.unrecognized 0x5120).wellFormed .strict = false ∧
    (Instr.unrecognized 0x5121).wellFormed .ignoreLowNibble = false ∧
    (Instr.unrecognized 0x9121).wellFormed .ignoreLowNibble = false ∧
    (Instr.unrecognized 0x8004).wellFormed .strict = false ∧
    (Instr.unrecognized 0xE09E).wellFormed .strict = false ∧
    (Instr.unrecognized 0xF065).wellFormed .strict = false := by decide

theorem test_wellFormed_accepts : (Instr.sys 0x123).wellFormed .strict = true ∧
    (Instr.unrecognized 0x5121).wellFormed .strict = true ∧
    (Instr.unrecognized 0x800F).wellFormed .ignoreLowNibble = true ∧
    (Instr.unrecognized 0xE09F).wellFormed .strict = true ∧
    (Instr.unrecognized 0xF066).wellFormed .strict = true := by decide

/-! ### Fetch -/

/-- T1, T2: the instruction at 0xFFE runs, and the next fetch faults. -/
theorem test_fetch_last : view (fun t => (t.reg 0, t.pc))
    (step ((State.reset.setPc 0xFFE).withFetchWord 16 0x6001)) = some (1, 0x1000) := by decide

theorem test_fetch_fault : view (fun t => (t.fault, t.pc)) (step (State.reset.setPc 0x1000)) =
    some (some ⟨.fetchOutOfRange, 0x1000, 0x1000⟩, 0x1000) := by decide

/-- T4: an odd pc fetches the two bytes there. -/
theorem test_fetch_odd : view (·.pc)
    (step (((holding 0x6005).setMem (Memory.writeBytes [] 0x200 [0x60, 0x05, 0x70, 0x03])).setPc 0x201)) =
    some 0x203 := by decide

/-! ### No-ops and control flow -/

theorem test_sys : view (fun t => (t.pc, t.redraw)) (step (holding 0x01E0)) = some (0x202, false) := by decide

theorem test_unrecognized : view (fun t => (t.reg 0, t.reg 15, t.pc)) (step (withRegs [(0, 3)] (holding 0x8008))) =
    some (3, 0, 0x202) := by decide

/-- T22, T20. -/
theorem test_ret : view (fun t => (t.stack, t.pc)) (step ((holding 0x00EE).push 0x300 |>.push 0x210)) =
    some ([0x300], 0x212) := by decide

theorem test_ret_empty : view (fun t => (t.stack, t.pc, t.fault)) (step (holding 0x00EE)) =
    some ([], 0x202, none) := by decide

theorem test_jp : view (·.pc) (step (holding 0x1234)) = some 0x234 := by decide

/-- T21. -/
theorem test_call : view (fun t => (t.stack, t.pc)) (step (holding 0x2300)) = some ([0x200], 0x300) := by decide

/-- T27: a full stack of capacity 1. -/
theorem test_call_full : view (fun t => (t.stack, t.pc, t.fault))
    (step ((withParams { defaultParams with stackCapacity := some 1 } (holding 0x2204)).push 0x200)) =
    some ([0x200], 0x200, some ⟨.stackOverflow, 0x200, 1⟩) := by decide

/-- T29 and the worked example of R95. -/
theorem test_seImm : view (·.pc) (step (holding 0x3F00)) = some 0x204 ∧
    view (·.pc) (step (withRegs [(3, 0x42)] (holding 0x3343))) = some 0x202 := by decide

/-- T30 and the worked example of R96. -/
theorem test_sneImm : view (·.pc) (step (holding 0x4F00)) = some 0x202 ∧
    view (·.pc) (step (withRegs [(3, 0x42)] (holding 0x4343))) = some 0x204 := by decide

/-- The worked example of R97, and T12. -/
theorem test_seReg : view (·.pc) (step (withRegs [(1, 7), (2, 7)] (holding 0x5120))) = some 0x204 ∧
    view (·.pc) (step (withParams { defaultParams with skipRRDecode := .ignoreLowNibble }
      (withRegs [(1, 7), (2, 7)] (holding 0x5121)))) = some 0x204 := by decide

/-- The worked example of R98, and T32. -/
theorem test_sneReg : view (·.pc) (step (withRegs [(1, 7), (2, 8)] (holding 0x9120))) = some 0x204 ∧
    view (·.pc) (step (holding 0x9110)) = some 0x202 := by decide

/-- T25, T26: V0 is the register, and the sum is not masked. -/
theorem test_jpV0 : view (·.pc) (step (withRegs [(0, 1), (1, 9)] (holding 0xB0FF))) = some 0x100 ∧
    view (·.pc) (step (withRegs [(0, 0xFF)] (holding 0xBFFF))) = some 0x10FE := by decide

/-! ### ALU -/

theorem test_ldImm : view (fun t => (t.reg 1, t.reg 15)) (step (withRegs [(1, 0x55), (15, 0x33)] (holding 0x6100))) =
    some (0, 0x33) := by decide

/-- T41, T42. -/
theorem test_addImm : view (fun t => (t.reg 0, t.reg 15)) (step (withRegs [(0, 0xFF), (15, 0x33)] (holding 0x7001))) =
    some (0, 0x33) ∧ view (·.reg 15) (step (withRegs [(15, 0xFF)] (holding 0x7F01))) = some 0 := by decide

theorem test_ldReg : view (fun t => (t.reg 1, t.reg 2)) (step (withRegs [(2, 0x9C)] (holding 0x8120))) =
    some (0x9C, 0x9C) := by decide

/-- T43, T44, T45: VF is left alone. -/
theorem test_orReg : view (fun t => (t.reg 1, t.reg 15))
    (step (withRegs [(1, 0xF0), (2, 0x0F), (15, 0x33)] (holding 0x8121))) = some (0xFF, 0x33) := by decide

theorem test_andReg : view (fun t => (t.reg 1, t.reg 15))
    (step (withRegs [(1, 0xF0), (2, 0x3C), (15, 0x33)] (holding 0x8122))) = some (0x30, 0x33) := by decide

theorem test_xorReg : view (fun t => (t.reg 1, t.reg 15))
    (step (withRegs [(1, 0xF0), (2, 0x3C), (15, 0x33)] (holding 0x8123))) = some (0xCC, 0x33) := by decide

/-- T48, T50: the old VF is the operand. -/
theorem test_addReg : view (fun t => (t.reg 0, t.reg 15)) (step (withRegs [(0, 0xFF), (1, 1)] (holding 0x8014))) =
    some (0, 1) ∧ view (fun t => (t.reg 0, t.reg 15)) (step (withRegs [(0, 1), (15, 0x80)] (holding 0x80F4))) =
    some (0x81, 0) := by decide

/-- T65 under both write orders. -/
theorem test_addReg_vf : view (·.reg 15) (step (withRegs [(15, 0xFF), (1, 1)] (holding 0x8F14))) = some 1 ∧
    view (·.reg 15) (step (withParams { defaultParams with vfWriteOrder := .resultLast }
      (withRegs [(15, 0xFF), (1, 1)] (holding 0x8F14)))) = some 0 := by decide

/-- T51, T52. -/
theorem test_subReg : view (fun t => (t.reg 0, t.reg 15)) (step (withRegs [(0, 5)] (holding 0x8005))) = some (0, 1) ∧
    view (fun t => (t.reg 0, t.reg 15)) (step (withRegs [(0, 0x10), (1, 0x11)] (holding 0x8015))) =
    some (0xFF, 0) := by decide

/-- T66. -/
theorem test_subReg_vf : view (·.reg 15) (step (withRegs [(15, 5), (1, 3)] (holding 0x8F15))) = some 1 ∧
    view (·.reg 15) (step (withParams { defaultParams with vfWriteOrder := .resultLast }
      (withRegs [(15, 5), (1, 3)] (holding 0x8F15)))) = some 2 := by decide

/-- T53: the source is Vy. -/
theorem test_shrReg : view (fun t => (t.reg 1, t.reg 15, t.reg 0)) (step (withRegs [(0, 3)] (holding 0x8106))) =
    some (1, 1, 3) := by decide

/-- x = F under both write orders (R111). -/
theorem test_shrReg_vf : view (·.reg 15) (step (withRegs [(1, 5)] (holding 0x8F16))) = some 1 ∧
    view (·.reg 15) (step (withParams { defaultParams with vfWriteOrder := .resultLast }
      (withRegs [(1, 5)] (holding 0x8F16)))) = some 2 := by decide

/-- T56, T57. -/
theorem test_subnReg : view (fun t => (t.reg 0, t.reg 15)) (step (withRegs [(0, 0x10), (1, 0x11)] (holding 0x8017))) =
    some (1, 1) ∧ view (fun t => (t.reg 0, t.reg 15)) (step (withRegs [(0, 0x11), (1, 0x10)] (holding 0x8017))) =
    some (0xFF, 0) := by decide

/-- x = F under both write orders (R111). -/
theorem test_subnReg_vf : view (·.reg 15) (step (withRegs [(15, 3), (1, 5)] (holding 0x8F17))) = some 1 ∧
    view (·.reg 15) (step (withParams { defaultParams with vfWriteOrder := .resultLast }
      (withRegs [(15, 3), (1, 5)] (holding 0x8F17)))) = some 2 := by decide

/-- T60, T61. -/
theorem test_shlReg : view (fun t => (t.reg 1, t.reg 15)) (step (withRegs [(0, 0x80)] (holding 0x810E))) =
    some (0, 1) ∧ view (fun t => (t.reg 0, t.reg 15)) (step (withRegs [(0, 0x41)] (holding 0x800E))) =
    some (0x82, 0) := by decide

/-- x = F under both write orders (R111). -/
theorem test_shlReg_vf : view (·.reg 15) (step (withRegs [(1, 0x41)] (holding 0x8F1E))) = some 0 ∧
    view (·.reg 15) (step (withParams { defaultParams with vfWriteOrder := .resultLast }
      (withRegs [(1, 0x41)] (holding 0x8F1E)))) = some 0x82 := by decide

/-- T62, T63: the draw 0xA7 stands for RAND's byte; a draw is taken even when kk = 0. -/
theorem test_rnd : (randomInto 0xA7 3 0x0F State.reset).reg 3 = 0x07 ∧
    (randomInto 0xA7 3 0x00 State.reset).reg 3 = 0 := by decide

theorem test_rnd_draws : view (·.draws) (step (holding 0xC300)) = some 1 := by decide

/-! ### Index and memory -/

theorem test_ldI : view (·.I) (step (holding 0xAFFF)) = some 0xFFF := by decide

/-- T71, T72. -/
theorem test_addIVx : view (fun t => (t.I, t.reg 15)) (step (withRegs [(0, 1), (15, 0x33)] ((holding 0xF01E).setI 0xFFF))) =
    some (0x1000, 0x33) ∧ view (·.I) (step (withRegs [(0, 1)] ((holding 0xF01E).setI 0xFFFF))) = some 0 := by decide

/-- T75. -/
theorem test_ldFVx : view (·.I) (step (withRegs [(0, 0xFF)] (holding 0xF029))) = some 0x4FB := by decide

/-- E8. -/
theorem test_ldBVx : view (fun t => (bytes [0x300, 0x301, 0x302] t, t.I, t.pc))
    (step (withRegs [(4, 205)] ((holding 0xF433).setI 0x300))) = some ([2, 0, 5], 0x300, 0x202) := by decide

/-- T79. -/
theorem test_ldBVx_fault : view (fun t => (t.fault, bytes [0xFFE, 0xFFF] t))
    (step (withRegs [(0, 9)] ((holding 0xF033).setI 0xFFE))) =
    some (some ⟨.memOutOfRange, 0x200, 0xFFE⟩, [0, 0]) := by decide

/-- The worked example of R134. -/
theorem test_ldMemVx : view (fun t => (bytes [0x300, 0x301, 0x302, 0x303] t, t.I))
    (step (withRegs [(0, 1), (1, 2), (2, 3), (3, 9)] ((holding 0xF255).setI 0x300))) =
    some ([1, 2, 3, 0], 0x303) := by decide

/-- T86: no wrap from 0xFFFF. -/
theorem test_ldMemVx_fault : view (fun t => (t.fault, t.I)) (step ((holding 0xF055).setI 0xFFFF)) =
    some (some ⟨.memOutOfRange, 0x200, 0xFFFF⟩, 0xFFFF) := by decide

theorem test_ldVxMem : view (fun t => (t.reg 0, t.reg 2, t.reg 3, t.I))
    (step (withRegs [(3, 9)] (withI 0x300 [0x10, 0x11, 0x12, 0x13] (holding 0xF265)))) =
    some (0x10, 0x12, 9, 0x303) := by decide

/-- T81. -/
theorem test_ldVxMem_fault : view (fun t => (t.fault, t.reg 0))
    (step (withRegs [(0, 0xAA)] ((holding 0xF065).setI 0x1000))) =
    some (some ⟨.memOutOfRange, 0x200, 0x1000⟩, 0xAA) := by decide

/-! ### Display -/

/-- T90, on a display that is not clear. -/
theorem test_cls : view (fun t => (pixel t.disp 3 4, t.redraw, t.pc)) (step (withPixel 3 4 (holding 0x00E0))) =
    some (false, true, 0x202) := by decide

/-- T94: clipping at the right edge. -/
theorem test_drw_clips : view (fun t => (pixel t.disp 62 0, pixel t.disp 63 0, pixel t.disp 0 0, t.reg 15, t.redraw))
    (step (withRegs [(0, 62)] (withI 0x300 [0xFF] (holding 0xD011)))) =
    some (true, true, false, 0, true) := by decide

/-- T96: a pixel going off is a collision. -/
theorem test_drw_collides : view (fun t => (pixel t.disp 0 0, t.reg 15))
    (step (withPixel 0 0 (withI 0x300 [0x80] (holding 0xD011)))) = some (false, 1) := by decide

/-! ### Keys and timers -/

/-- T113, T110. -/
theorem test_skp : view (fun t => (t.pc, t.key[5])) (step (withRegs [(1, 5)] ((holding 0xE19E).setKey 5 true))) =
    some (0x204, true) ∧ view (·.fault) (step (withRegs [(1, 0x10)] (holding 0xE19E))) =
    some (some ⟨.keyIndexOutOfRange, 0x200, 0x10⟩) := by decide

/-- T112, T111. -/
theorem test_sknp : view (·.pc) (step (withRegs [(1, 5)] ((holding 0xE1A1).setKey 5 true))) = some 0x202 ∧
    view (·.fault) (step (withRegs [(1, 0xFF)] (holding 0xE1A1))) =
    some (some ⟨.keyIndexOutOfRange, 0x200, 0xFF⟩) := by decide

theorem test_ldVxDt : view (·.reg 5) (step ((holding 0xF507).setDT 0x3C)) = some 0x3C := by decide

/-- T114. -/
theorem test_ldVxK : view (fun t => (t.reg 2, t.pc)) (step (((holding 0xF20A).setKey 9 true).setKey 3 true)) =
    some (3, 0x202) := by decide

/-- T115, T116: only key 0xF is pressed. -/
theorem test_ldVxK_last : view (fun t => (t.reg 2, t.pc)) (step ((holding 0xF20A).setKey 15 true)) =
    some (0, 0x200) ∧ view (fun t => (t.reg 2, t.pc))
      (step (withParams { defaultParams with keywaitLastKey := .key15 } ((holding 0xF20A).setKey 15 true))) =
    some (15, 0x202) := by decide

theorem test_ldDtVx : view (·.DT) (step (withRegs [(0, 0xFF)] (holding 0xF015))) = some 0xFF := by decide

/-- T120. -/
theorem test_ldStVx : view (fun t => (t.ST, t.soundActive)) (step (withRegs [(0, 0x1E)] (holding 0xF018))) =
    some (0x1E, false) := by decide

/-! ### Frame and host operations -/

/-- T122, T123, T125. -/
theorem test_timerTick :
    (fun t : State => (t.DT, t.ST, t.soundActive)) (timerTick ((State.reset.setDT 1).setST 1)) = (0, 0, true) ∧
    (fun t : State => (t.DT, t.ST, t.soundActive)) (timerTick (State.reset.setDT 5)) = (4, 0, false) ∧
    (fun t : State => (t.DT, t.ST, t.soundActive)) (timerTick ((State.reset.setDT 0xFF).setST 0xFF)) =
      (0xFE, 0xFE, true) := by decide

/-- T135. -/
theorem test_loadGlyphs : view (bytes [0, 1, 2, 3, 4]) (hostOp .loadGlyphs State.reset) =
      some [0xF0, 0x90, 0x90, 0x90, 0xF0] ∧
    view (bytes [0x4B, 0x4C, 0x4D, 0x4E, 0x4F, 0x50]) (hostOp .loadGlyphs State.reset) =
      some [0xF0, 0x80, 0xF0, 0x80, 0x80, 0] := by decide

/-- T132. -/
theorem test_setKey_refused : hostSetKey 16 true State.reset = .refused (.notAKey 16) := rfl

theorem test_setKey : view (fun t => (t.key[3], t.key[4])) (hostOp (.setKey 3 true) State.reset) =
    some (true, false) := by decide

/-! ### Witnesses: states and operands that meet all hypotheses of a statement together -/

theorem witness_DecodeAfterEncodeIsIdentity : (Instr.sys 0xFFF).wellFormed .strict = true ∧
    (Instr.unrecognized 0x5001).wellFormed .strict = true ∧
    (Instr.unrecognized 0xFFFF).wellFormed .ignoreLowNibble = true ∧
    (Instr.drw 15 15 15).wellFormed .strict = true := by decide

/-- The field hypotheses of `OpcodeMapRowsDecode`, as a check on one word. -/
def fieldsMet (w : Word) (x y n : Fin 16) (kk : Byte) (nnn : Addr12) : Bool :=
  decide (x.val = w.toNat / 256 % 16 ∧ y.val = w.toNat / 16 % 16 ∧ n.val = w.toNat % 16 ∧
    kk.toNat = w.toNat % 256 ∧ nnn.toNat = w.toNat % 4096)

/-- A word at the top of its field range for each clause of the opcode map. -/
theorem witness_OpcodeMapRowsDecode :
    (fieldsMet 0x0FFF 15 15 15 0xFF 0xFFF && fieldsMet 0x00E0 0 14 0 0xE0 0x0E0 &&
      fieldsMet 0x00EE 0 14 14 0xEE 0x0EE) = true ∧
    (0x0FFF : Word) &&& 0xF000 = 0x0000 ∧
    (∀ op ∈ [0x1, 0x2, 0x3, 0x4, 0x5, 0x6, 0x7, 0x9, 0xA, 0xB, 0xC, 0xD],
      fieldsMet (BitVec.ofNat 16 (op * 0x1000 + 0xFFF)) 15 15 15 0xFF 0xFFF = true ∧
      BitVec.ofNat 16 (op * 0x1000 + 0xFFF) &&& 0xF000 = BitVec.ofNat 16 (op * 0x1000)) ∧
    (∀ g ∈ [(0x5, 0), (0x9, 0), (0x8, 0), (0x8, 1), (0x8, 2), (0x8, 3), (0x8, 4), (0x8, 5), (0x8, 6), (0x8, 7),
        (0x8, 0xE)],
      fieldsMet (BitVec.ofNat 16 (g.1 * 0x1000 + 0xFF0 + g.2)) 15 15 (Fin.ofNat 16 g.2)
        (BitVec.ofNat 8 (0xF0 + g.2)) (BitVec.ofNat 12 (0xFF0 + g.2)) = true ∧
      BitVec.ofNat 16 (g.1 * 0x1000 + 0xFF0 + g.2) &&& 0xF00F = BitVec.ofNat 16 (g.1 * 0x1000 + g.2)) ∧
    (∀ g ∈ [(0xE, 0x9E), (0xE, 0xA1), (0xF, 0x07), (0xF, 0x0A), (0xF, 0x15), (0xF, 0x18), (0xF, 0x1E), (0xF, 0x29),
        (0xF, 0x33), (0xF, 0x55), (0xF, 0x65)],
      fieldsMet (BitVec.ofNat 16 (g.1 * 0x1000 + 0xF00 + g.2)) 15 (Fin.ofNat 16 (g.2 / 16)) (Fin.ofNat 16 g.2)
        (BitVec.ofNat 8 g.2) (BitVec.ofNat 12 (0xF00 + g.2)) = true ∧
      BitVec.ofNat 16 (g.1 * 0x1000 + 0xF00 + g.2) &&& 0xF0FF = BitVec.ofNat 16 (g.1 * 0x1000 + g.2)) := by
  decide

theorem witness_FetchIsBigEndian : (State.reset.setPc 0xFFE).pc.toNat ≤ 0xFFE := by decide

theorem witness_StepRunsTheDecodedInstruction : Unfaulted (holding 0x6005) ∧ (holding 0x6005).pc.toNat ≤ 0xFFE ∧
    decode (holding 0x6005).params.skipRRDecode [Memory.read (holding 0x6005).mem (holding 0x6005).pc.toNat,
      Memory.read (holding 0x6005).mem ((holding 0x6005).pc.toNat + 1)] = .ok (.ldImm 0 5, []) := by decide

theorem witness_FetchPastTheEndFaults : Unfaulted (State.reset.setPc 0xFFF) ∧
    0xFFE < (State.reset.setPc 0xFFF).pc.toNat := by decide

/-- A machine that has faulted at fetch. -/
def faulted : State := State.reset.raise .fetchOutOfRange 0x200

theorem witness_FaultedMachineHasNoTransition : faulted.fault = some ⟨.fetchOutOfRange, 0x200, 0x200⟩ := by decide

theorem witness_FaultingStepWritesOnlyTheRecord : ∃ t, step (State.reset.setPc 0xFFF) = .next t ∧
    t.fault = some ⟨.fetchOutOfRange, 0xFFF, 0xFFF⟩ := ⟨_, rfl, by decide⟩

theorem witness_ReturnResumesAfterTheCall : (State.reset.push 0xFFE).stack = [] ++ [0xFFE] ∧
    State.reset.stack = [] := by decide

theorem witness_JumpGoesToItsTarget : (0xFFF : Addr12) = 0xFFF ∧ Unfaulted State.reset := by decide

theorem witness_CallPushesItsOwnAddress : State.reset.params.stackCapacity ≠ some State.reset.stack.length ∧
    (withParams { defaultParams with stackCapacity := some 1 } (State.reset.push 0x200)).params.stackCapacity =
      some (withParams { defaultParams with stackCapacity := some 1 } (State.reset.push 0x200)).stack.length := by
  decide

theorem witness_SkipsAdvanceByFourOrTwo : (15 : Fin 16).val = ((withRegs [(1, 15)] State.reset).reg 1).toNat := by
  decide

theorem witness_KeyIndexAboveFifteenFaults : 15 < ((withRegs [(1, 16)] State.reset).reg 1).toNat := by decide

/-- The hypotheses of `PcConvention` for an instruction. -/
theorem witness_PcConvention : Unfaulted State.reset ∧ ∃ t, exec (.ldImm 0 5) State.reset = .next t ∧ Unfaulted t :=
  ⟨by decide, _, rfl, by decide⟩

/-- Its clauses on the stack, on a key index and on the two outcomes of the key scan. -/
theorem witness_PcConvention_clauses : State.reset.stack = [] ∧ (State.reset.push 0x210).stack = [] ++ [0x210] ∧
    (15 : Fin 16).val = ((withRegs [(1, 15)] State.reset).reg 1).toNat ∧
    ((14 : Fin 16).val ≤ keywaitLast defaultParams.keywaitLastKey ∧ (State.reset.setKey 14 true).key[14] = true) ∧
    (∀ k : Fin 16, k.val ≤ keywaitLast defaultParams.keywaitLastKey → (State.reset.setKey 15 true).key[k] = false) := by
  decide

theorem witness_VFChangesOnlyByFlagInstructionsOrAsDestination :
    ∃ t, exec (.subReg 0 1) State.reset = .next t ∧ t.reg 15 ≠ State.reset.reg 15 := ⟨_, rfl, by decide⟩

theorem witness_DecimalDigitsAreStored : MemoryCanonical (holding 0xF033) ∧ ((holding 0xF033).setI 0xFFD).I.toNat + 2 ≤ 0xFFF := by
  decide

theorem witness_StoreRegistersWritesVToMemory : MemoryCanonical (holding 0xFF55) ∧
    ((holding 0xFF55).setI 0xFF0).I.toNat + (15 : RegIdx).val ≤ 0xFFF := by decide

theorem witness_LoadRegistersReadsVFromMemory : (State.reset.setI 0xFF0).I.toNat + (15 : RegIdx).val ≤ 0xFFF := by
  decide

theorem witness_OutOfRangeAccessFaultsBeforeAnyWrite : 0xFFF < (State.reset.setI 0xFFE).I.toNat + 2 ∧
    0xFFF < (State.reset.setI 0xFF1).I.toNat + (15 : RegIdx).val ∧
    (0 < (3 : Fin 16).val ∧ 0xFFF < (State.reset.setI 0xFFE).I.toNat + (3 : Fin 16).val - 1) := by decide

theorem witness_StoreThenLoadRestoresRegisters : MemoryCanonical (State.reset.setI 0xFF0) ∧
    (State.reset.setI 0xFF0).I.toNat + (15 : RegIdx).val ≤ 0xFFF ∧
    ∃ t, exec (.ldMemVx 15) (State.reset.setI 0xFF0) = .next t ∧
      ∃ u : State, u.mem = t.mem ∧ u.I = (State.reset.setI 0xFF0).I :=
  ⟨by decide, by decide, _, rfl, (State.reset.setI 0xFF0).setMem _, rfl, rfl⟩

theorem witness_FetchSeesTheStoredInstruction : MemoryCanonical ((State.reset.setPc 0xFFC).setI 0xFFE) ∧
    Unfaulted ((State.reset.setPc 0xFFC).setI 0xFFE) ∧ ((State.reset.setPc 0xFFC).setI 0xFFE).pc.toNat ≤ 0xFFC ∧
    ((State.reset.setPc 0xFFC).setI 0xFFE).I = ((State.reset.setPc 0xFFC).setI 0xFFE).pc + 2 ∧
    1 ≤ (1 : RegIdx).val ∧ ((State.reset.setPc 0xFFC).setI 0xFFE).I.toNat + (1 : RegIdx).val ≤ 0xFFF ∧
    ∃ t, exec (.ldMemVx 1) ((State.reset.setPc 0xFFC).setI 0xFFE) = .next t :=
  ⟨by decide, by decide, by decide, by decide, by decide, by decide, _, rfl⟩

theorem witness_DrawXorsTheClippedSprite : (State.reset.setI 0xFF1).I.toNat + (15 : Fin 16).val - 1 ≤ 0xFFF ∧
    (∃ col row, pixel (withPixel 0 0 (withI 0x300 [0x80] State.reset)).disp col row = true ∧
      spriteBit (withPixel 0 0 (withI 0x300 [0x80] State.reset)) 0 1 1 col row = true) ∧
    (∀ col row, spriteBit (withI 0x300 [0x80] State.reset) 0 1 1 col row = true →
      pixel (withI 0x300 [0x80] State.reset).disp col row = false) ∧
    spriteBit (withI 0x300 [0x80] State.reset) 0 1 1 0 0 = true :=
  ⟨by decide, ⟨0, 0, by decide, by decide⟩, fun col row _ => pixel_blankDisplay col row, by decide⟩

theorem witness_DrawingTwiceRestoresTheDisplay : ((withI 0x300 [0x80] State.reset).I.toNat + (1 : Fin 16).val - 1 ≤ 0xFFF) ∧
    ∃ t, exec (.drw 0 1 1) (withI 0x300 [0x80] State.reset) = .next t ∧ ∃ u : State, u.disp = t.disp ∧
      u.mem = (withI 0x300 [0x80] State.reset).mem ∧ u.I = (withI 0x300 [0x80] State.reset).I ∧
      u.reg 0 = (withI 0x300 [0x80] State.reset).reg 0 ∧ u.reg 1 = (withI 0x300 [0x80] State.reset).reg 1 :=
  ⟨by decide, _, rfl, (withI 0x300 [0x80] State.reset).present _, rfl, rfl, rfl, rfl, rfl⟩

/-- The two clauses of the second draw: a set bit over a pixel that was off, and only over pixels that were on. -/
theorem witness_DrawingTwiceRestoresTheDisplay_clauses :
    (∃ col row, spriteBit (withI 0x300 [0x80] State.reset) 0 1 1 col row = true ∧
      pixel (withI 0x300 [0x80] State.reset).disp col row = false) ∧
    (∀ col row, spriteBit (lit (withI 0x300 [0x80] State.reset)) 0 1 1 col row = true →
      pixel (lit (withI 0x300 [0x80] State.reset)).disp col row = true) ∧
    spriteBit (lit (withI 0x300 [0x80] State.reset)) 0 1 1 0 0 = true :=
  ⟨⟨0, 0, by decide, by decide⟩, fun col row _ => by simp [lit, pixel], by decide⟩

theorem witness_KeyWaitTakesTheLowestKeyOrWaits :
    ((14 : Fin 16).val ≤ keywaitLast defaultParams.keywaitLastKey ∧ (State.reset.setKey 14 true).key[14] = true ∧
      ∀ j : Fin 16, j < 14 → (State.reset.setKey 14 true).key[j] = false) ∧
    (∀ k : Fin 16, k.val ≤ keywaitLast defaultParams.keywaitLastKey → (State.reset.setKey 15 true).key[k] = false) := by
  decide

/-- A state a Step leaves as it is stays so for any number of Steps. -/
theorem run_fixed {s : State} (h : step s = .next s) (k : Nat) : Host.Core.run Sys2Proof.core k s = .next s := by
  induction k with
  | zero => rfl
  | succ k ih => rw [run_succ h, ih]

/-- `1200` at 0x200 jumps to itself (the corner case of R92). -/
theorem step_selfJump : step (holding 0x1200) = .next (holding 0x1200) := by rfl

theorem witness_TimerTickCountsDown : Unfaulted (holding 0x1200) ∧
    Host.Core.run Sys2Proof.core 9 (holding 0x1200) = .next (holding 0x1200) :=
  ⟨by decide, run_fixed step_selfJump 9⟩

theorem witness_FrameIsNineStepsThenATick : (Unfaulted (holding 0x1200) ∧
      Host.Core.run Sys2Proof.core 9 (holding 0x1200) = .next (holding 0x1200)) ∧
    (Unfaulted (State.reset.setPc 0xFFF) ∧
      ∃ t, Host.Core.run Sys2Proof.core 1 (State.reset.setPc 0xFFF) = .next t ∧ ¬ Unfaulted t) :=
  ⟨witness_TimerTickCountsDown, by decide, _, rfl, by decide⟩

theorem witness_WaitingFrameOnlyTicks : Unfaulted (holding 0xF30A) ∧ (holding 0xF30A).fetch = some 0xF30A ∧
    decodeWord (holding 0xF30A).params.skipRRDecode 0xF30A = .ldVxK 3 ∧
    ∀ k : Fin 16, k.val ≤ keywaitLast (holding 0xF30A).params.keywaitLastKey → (holding 0xF30A).key[k] = false := by
  decide

theorem witness_SetKeyAndClearRedrawWriteOneFlag : 15 < 16 := by decide

theorem witness_LoadGlyphsWritesTheFont : MemoryCanonical (holding 0x6005) := by decide

theorem witness_LoadProgramCopiesTheImage : MemoryCanonical (holding 0x6005) ∧
    (List.replicate 3584 (1 : Byte)).length ≤ 3584 ∧ 3584 < (List.replicate 3585 (1 : Byte)).length :=
  ⟨by decide, by rw [List.length_replicate], by rw [List.length_replicate]; omega⟩

theorem witness_LoadOrderDoesNotMatter : MemoryCanonical (holding 0x6005) ∧
    (List.replicate 3584 (1 : Byte)).length ≤ 3584 :=
  ⟨by decide, by rw [List.length_replicate]⟩

theorem witness_StepKeepsMemoryCanonical : MemoryCanonical ((holding 0xF055).setI 0xFFF) ∧
    ∃ t, step ((holding 0xF055).setI 0xFFF) = .next t := ⟨by decide, next_of_view (by decide)⟩

theorem witness_StepKeepsAddressesBounded : AddressesBounded ((holding 0xBFFF).push 0xFFE) ∧
    ∃ t, step ((holding 0xBFFF).push 0xFFE) = .next t :=
  ⟨⟨by decide, fun _ h => List.mem_singleton.1 (show _ ∈ [0xFFE#16] from h) ▸ by decide⟩,
    next_of_view (by decide)⟩

theorem witness_StepKeepsStackWithinCapacity :
    StackWithinCapacity (withParams { defaultParams with stackCapacity := some 1 } (holding 0x2300)) ∧
    ∃ t, step (withParams { defaultParams with stackCapacity := some 1 } (holding 0x2300)) = .next t :=
  ⟨by decide, next_of_view (by decide)⟩

theorem witness_HostOperationsKeepTheInvariants : (∃ t, hostOp .loadGlyphs State.reset = .next t) ∧
    MemoryCanonical State.reset ∧ AddressesBounded State.reset ∧ StackWithinCapacity State.reset :=
  ⟨⟨loadGlyphs State.reset, rfl⟩, by decide, ⟨by decide, fun _ h => nomatch (show _ ∈ [] from h)⟩, by decide⟩

theorem witness_InstructionsChangeOnlyWhatTheirRulesName : ∃ t, exec (.drw 0 1 5) State.reset = .next t := next_of_view (by decide)

theorem witness_StepNeverWritesHostState : ∃ t, step (holding 0xF20A) = .next t := next_of_view (by decide)

theorem witness_UnreadStateNeverMatters :
    withoutUnread (holding 0xF118) = withoutUnread ((holding 0xF118).setST 7) ∧
    ∃ t, step (holding 0xF118) = .next t := ⟨rfl, next_of_view (by decide)⟩

/-! ### Parameters and creation -/

/-- R192: FONT's glyph for A. -/
theorem test_defaultFont : (defaultFont[0x32], defaultFont[0x36], defaultFont[0x4F]) = (0xF0, 0x90, 0x80) := by decide

theorem test_reset : (State.reset.pc, State.reset.I, State.reset.stack, State.reset.fault) = (0x200, 0, [], none) := by
  decide

end Sys2Proof.Tests
end

section
/-! ## Creation
What each part of a created machine holds (10_state.md R37), and the two ways the model creates one. -/

namespace Sys2Proof.Machine

open Sys2Proof.Config

/-! ### The parts of a created machine -/

@[simp] theorem State.create_I (p : Params) (n : Nat) : (State.create p n).I = 0 := rfl
@[simp] theorem State.create_pc (p : Params) (n : Nat) : (State.create p n).pc = 0x200 := rfl
@[simp] theorem State.create_stack (p : Params) (n : Nat) : (State.create p n).stack = [] := rfl
@[simp] theorem State.create_DT (p : Params) (n : Nat) : (State.create p n).DT = 0 := rfl
@[simp] theorem State.create_ST (p : Params) (n : Nat) : (State.create p n).ST = 0 := rfl
@[simp] theorem State.create_mem (p : Params) (n : Nat) : (State.create p n).mem = [] := rfl
@[simp] theorem State.create_disp (p : Params) (n : Nat) : (State.create p n).disp = blankDisplay := rfl
@[simp] theorem State.create_redraw (p : Params) (n : Nat) : (State.create p n).redraw = false := rfl
@[simp] theorem State.create_soundActive (p : Params) (n : Nat) : (State.create p n).soundActive = false := rfl
@[simp] theorem State.create_fault (p : Params) (n : Nat) : (State.create p n).fault = none := rfl

@[simp] theorem State.create_reg (p : Params) (n : Nat) (x : RegIdx) : (State.create p n).reg x = 0 :=
  Vector.getElem_replicate x.isLt

@[simp] theorem State.create_key (p : Params) (n : Nat) (k : Fin 16) : (State.create p n).key[k] = false :=
  Vector.getElem_replicate k.isLt

/-- Memory that lists no byte reads 0 everywhere. -/
@[simp] theorem Memory.read_nil (a : Nat) : Memory.read [] a = 0 := rfl

/-! ### The machines that are created -/

theorem State.reset_eq_create : State.reset = State.create defaultParams 0 := rfl

@[simp] theorem hostOp_create (s : State) : hostOp .create s = .next (State.create s.params s.draws) := rfl

/-- Settles O52: memory lists no byte, the display is blank, and every other part is read off `State.create`; the
host's Create keeps the parameters and the draw position of the state it is called on. -/
theorem creationValues : Obligations.CreationValues := by
  refine ⟨fun p n => ?_, ⟨_, _, State.reset_eq_create⟩, fun s => ⟨_, _, hostOp_create s⟩⟩
  have hmem (a : Nat) : Memory.read (State.create p n).mem a = 0 := by
    rw [State.create_mem, Memory.read_nil]
  have hdisp (col : Fin 64) (row : Fin 32) : pixel (State.create p n).disp col row = false := by
    rw [State.create_disp, pixel_blankDisplay]
  exact ⟨State.create_reg p n, State.create_I p n, State.create_pc p n, State.create_stack p n, State.create_DT p n,
    State.create_ST p n, hmem, hdisp, State.create_key p n, State.create_redraw p n, State.create_soundActive p n,
    State.create_fault p n⟩

end Sys2Proof.Machine
end

section
/-! ## Fetch
The word an instruction fetch reads (20_memory.md R42). -/

namespace Sys2Proof.Machine

/-- Settles O7: fetch answers the word of the two bytes at pc and pc + 1, and a word of two bytes has the first as its
bits 15:8. -/
theorem fetchIsBigEndian : Obligations.FetchIsBigEndian := by
  intro s hpc
  exact ⟨_, State.fetch_some hpc, toNat_wordOfBytes _ _⟩

end Sys2Proof.Machine
end

section
/-! ## The pc convention
Where each completed instruction leaves pc (40_execution_cycle.md R84): how the shared operations move it, what each
listed instruction answers, and the convention over all instructions. -/

namespace Sys2Proof.Machine

open Sys2Proof.Config Sys2Proof.Safety

/-! ### How the shared operations move pc -/

/-- The last write of an instruction that is not listed: whatever it did before, it left pc alone. -/
theorem pcMoved_advance {s u : State} (h : u.pc = s.pc) : PcMoved 2 s u.advance := by
  rw [PcMoved, State.advance_pc, h, BitVec.toNat_add]; rfl

/-- A skip on a condition `P` that the model tests as the Boolean `b`. -/
theorem pcMoved_skipIf (s : State) {P : Prop} [Decidable P] {b : Bool} (h : b = true ↔ P) :
    PcMoved (if P then 4 else 2) s (s.skipIf b) := by
  rw [PcMoved, State.skipIf_pc, BitVec.toNat_add]
  by_cases hP : P
  · rw [if_pos hP, if_pos (h.2 hP)]; rfl
  · rw [if_neg hP, if_neg (mt h.1 hP)]; rfl

/-- An access from I that did not fault had its effect. -/
theorem accessAtI_unfaulted {n : Nat} {e : State → State} {s t : State} (h : accessAtI n e s = .next t)
    (ht : Unfaulted t) : t = e s := by
  rcases accessAtI_cases h with ⟨-, rfl⟩ | ⟨-, -, rfl⟩
  · rfl
  · cases ht

/-! ### The targets of jumps -/

@[simp] theorem toNat_absolute (nnn : Addr12) : (absolute nnn).toNat = nnn.toNat :=
  BitVec.toNat_setWidth_of_le (by decide)

@[simp] theorem toNat_widen (b : Byte) : (widen b).toNat = b.toNat :=
  BitVec.toNat_setWidth_of_le (by decide)

/-! ### What the listed instructions answer -/

/-- A CALL that did not fault found room on the stack (41_control_flow.md R93). -/
theorem execCall_unfaulted {nnn : Addr12} {s t : State} (h : execCall nnn s = .next t) (ht : Unfaulted t) :
    t = (s.push s.pc).setPc (absolute nnn) := by
  unfold execCall at h
  split at h
  · cases h; cases ht
  · cases h; rfl

theorem execRet_nil {s : State} (h : s.stack = []) : execRet s = .next s.advance := by
  rw [execRet, State.top, h]; rfl

theorem execRet_append {s : State} {rest : List Word} {u : Word} (h : s.stack = rest ++ [u]) :
    execRet s = .next (s.popped.setPc (u + 2)) := by
  rw [execRet, State.top, h, List.getLast?_concat]

/-- A key skip when Vx names the key `k` (45_timers_keys.md R150, R151). -/
theorem skipOnKey_of_key {s : State} {x : RegIdx} {k : Fin 16} (h : k.val = (s.reg x).toNat) (pressed : Bool) :
    skipOnKey pressed x s = .next (s.skipIf (s.key[k] == pressed)) := by
  have hk : s.keyOperand x = some k := by
    rw [State.keyOperand_some (h ▸ k.isLt)]; exact congrArg some (Fin.ext h.symm)
  rw [skipOnKey, hk]

theorem execLdVxK_some {s : State} {k : Nat} (h : s.scanKeys = some k) (x : RegIdx) :
    execLdVxK x s = .next (s.setReg x (BitVec.ofNat 8 k)).advance := by
  rw [execLdVxK, h]

theorem execLdVxK_none {s : State} (h : s.scanKeys = none) (x : RegIdx) : execLdVxK x s = .next s := by
  rw [execLdVxK, h]

/-- FX0A advances when some key of its scan range is pressed. -/
theorem execLdVxK_pressed {x : RegIdx} {s t : State} (h : execLdVxK x s = .next t)
    (hp : ∃ k : Fin 16, k.val ≤ keywaitLast s.params.keywaitLastKey ∧ s.key[k] = true) : PcMoved 2 s t := by
  cases hscan : s.scanKeys with
  | none =>
    obtain ⟨k, hk, hkey⟩ := hp
    simp [State.scanKeys_eq_none.1 hscan k hk] at hkey
  | some j =>
    obtain rfl := Host.Outcome.next.inj ((execLdVxK_some hscan x).symm.trans h)
    exact pcMoved_advance (State.setReg_pc ..)

/-! ### The convention -/

/-- Settles O20: an unlisted instruction answers a state it advanced last, or has the effect of an access from I, since
a fault is excluded; each listed one has its equation above. -/
theorem pcConvention : Obligations.PcConvention := by
  intro i s t _ h ht
  cases i with
  | jp nnn => obtain rfl := Host.Outcome.next.inj h; exact toNat_absolute nnn
  | call nnn => obtain rfl := execCall_unfaulted h ht; exact toNat_absolute nnn
  | jpV0 nnn =>
    obtain rfl := Host.Outcome.next.inj h
    rw [State.setPc_pc, BitVec.toNat_add, toNat_absolute, toNat_widen]
  | ret =>
    refine ⟨fun hs => ?_, fun rest u hs => ?_⟩
    · obtain rfl := Host.Outcome.next.inj ((execRet_nil hs).symm.trans h)
      exact pcMoved_advance rfl
    · obtain rfl := Host.Outcome.next.inj ((execRet_append hs).symm.trans h)
      rw [State.setPc_pc, BitVec.toNat_add]; rfl
  | seImm | seReg => obtain rfl := Host.Outcome.next.inj h; exact pcMoved_skipIf s beq_iff_eq
  | sneImm | sneReg => obtain rfl := Host.Outcome.next.inj h; exact pcMoved_skipIf s bne_iff_ne
  | skp | sknp =>
    intro k hk
    obtain rfl := Host.Outcome.next.inj ((skipOnKey_of_key hk _).symm.trans h)
    exact pcMoved_skipIf s beq_iff_eq
  | ldVxK x =>
    refine ⟨execLdVxK_pressed h, fun hnone => ?_⟩
    obtain rfl := Host.Outcome.next.inj ((execLdVxK_none (State.scanKeys_eq_none.2 hnone) x).symm.trans h)
    rfl
  | addReg | subReg | shrReg | subnReg | shlReg =>
    obtain rfl := Host.Outcome.next.inj h; exact pcMoved_advance (State.writeResultAndFlag_pc ..)
  | drw | ldBVx | ldMemVx | ldVxMem => obtain rfl := accessAtI_unfaulted h ht; exact pcMoved_advance rfl
  | sys | unrecognized | cls | ldImm | addImm | ldReg | orReg | andReg | xorReg | ldI | rnd | ldVxDt | ldDtVx | ldStVx
  | addIVx | ldFVx => obtain rfl := Host.Outcome.next.inj h; exact pcMoved_advance rfl

end Sys2Proof.Machine
end

section
/-! ## What the state's operations change
The frame of each shared operation (00_scope.md R18): the parts it writes, and so what it leaves unchanged. -/

namespace Sys2Proof.Safety

open Sys2Proof.Machine

variable {W : Component → Prop} {s t : State}

theorem ChangesOnly.refl (W : Component → Prop) (s : State) : ChangesOnly W s s := by
  intro c _
  cases c <;> rfl

theorem ChangesOnly.setPc (h : ChangesOnly W s t) (hpc : W .pc) (w : Word) : ChangesOnly W s (t.setPc w) := by
  intro c hc
  cases c with
  | pc => exact absurd hpc hc
  | _ => exact h _ hc

theorem ChangesOnly.push (h : ChangesOnly W s t) (hst : W .stack) (w : Word) : ChangesOnly W s (t.push w) := by
  intro c hc
  cases c with
  | stack => exact absurd hst hc
  | _ => exact h _ hc

theorem ChangesOnly.popped (h : ChangesOnly W s t) (hst : W .stack) : ChangesOnly W s t.popped := by
  intro c hc
  cases c with
  | stack => exact absurd hst hc
  | _ => exact h _ hc

theorem ChangesOnly.advance (h : ChangesOnly W s t) (hpc : W .pc) : ChangesOnly W s t.advance :=
  h.setPc hpc _

theorem ChangesOnly.skipIf (h : ChangesOnly W s t) (hpc : W .pc) (b : Bool) : ChangesOnly W s (t.skipIf b) := by
  cases b with
  | false => exact h.advance hpc
  | true => exact h.setPc hpc _

/-- Raising a fault writes the record and nothing else (60_exceptions.md R161). -/
theorem raised_raise (s : State) (code : FaultCode) (info : Nat) : Raised code info s (s.raise code info) := by
  refine ⟨rfl, fun c hc => ?_⟩
  cases c with
  | fault => exact absurd rfl hc
  | _ => rfl

end Sys2Proof.Safety
end

section
/-! ## Control flow
Return, jump, call and the skips (41_control_flow.md R91 to R98): what each completes with, and its frame. -/

namespace Sys2Proof.Machine

open Sys2Proof.Safety

/-! ### Return -/

/-- Settles O14: the equations of RET for a stack that ends in an entry and for an empty one. -/
theorem returnResumesAfterTheCall : Obligations.ReturnResumesAfterTheCall := by
  refine ⟨fun s rest u hs => ⟨_, execRet_append hs, ?stack, BitVec.toNat_add .., ?frame⟩,
    fun s hs => ⟨_, execRet_nil hs, pcMoved_advance rfl, (ChangesOnly.refl (· = .pc) s).advance rfl⟩⟩
  case stack => rw [State.setPc_stack, State.popped_stack, hs, List.dropLast_concat]
  case frame => exact ((ChangesOnly.refl _ s).popped (.inr rfl)).setPc (.inl rfl) _

/-! ### Jump -/

/-- A Step of an unfaulted machine whose pc lies past the last word of memory (40_execution_cycle.md R82). -/
theorem step_fetchFault {s : State} (hf : Unfaulted s) (hpc : 0xFFE < s.pc.toNat) :
    step s = .next (s.raise .fetchOutOfRange s.pc.toNat) := by
  rw [step, hf, State.fetch_none hpc]

/-- Settles O15: JP writes pc alone, so it leaves an unfaulted machine unfaulted; the target FFF is past the last word
of memory. -/
theorem jumpGoesToItsTarget : Obligations.JumpGoesToItsTarget := by
  intro s nnn
  refine ⟨s.setPc (absolute nnn), rfl, toNat_absolute nnn, ?frame, ?atFFF⟩
  case frame => exact (ChangesOnly.refl (· = .pc) s).setPc rfl _
  case atFFF =>
    rintro rfl hf
    have hpc : 0xFFE < (absolute 0xFFF).toNat := by decide
    exact ⟨_, step_fetchFault hf hpc, raised_raise ..⟩

/-! ### Call -/

theorem State.stackFull_iff (s : State) : s.stackFull = true ↔ s.params.stackCapacity = some s.stack.length :=
  beq_iff_eq

theorem execCall_full {s : State} (h : s.params.stackCapacity = some s.stack.length) (nnn : Addr12) :
    execCall nnn s = .next (s.raise .stackOverflow s.stack.length) := by
  rw [execCall, if_pos (s.stackFull_iff.2 h)]

theorem execCall_room {s : State} (h : s.params.stackCapacity ≠ some s.stack.length) (nnn : Addr12) :
    execCall nnn s = .next ((s.push s.pc).setPc (absolute nnn)) := by
  rw [execCall, if_neg (mt s.stackFull_iff.1 h)]

/-- Settles O16: the equations of CALL for a stack with room and for a full one. -/
theorem callPushesItsOwnAddress : Obligations.CallPushesItsOwnAddress := by
  refine fun s nnn => ⟨fun hroom => ⟨_, execCall_room hroom nnn, rfl, toNat_absolute nnn, ?frame⟩,
    fun hfull => ⟨_, execCall_full hfull nnn, raised_raise ..⟩⟩
  exact ((ChangesOnly.refl _ s).push (.inr rfl) _).setPc (.inl rfl) _

/-! ### Skips -/

/-- The skip convention (R94), for an instruction that skips on a condition `P`, which the model tests as the Boolean
`b`. -/
theorem completes_skipIf {i : Instr} {s : State} {P : Prop} [Decidable P] {b : Bool}
    (hi : exec i s = .next (s.skipIf b)) (hb : b = true ↔ P) :
    Completes i s (fun t => PcMoved (if P then 4 else 2) s t ∧ ChangesOnly (· = .pc) s t) :=
  ⟨_, hi, pcMoved_skipIf s hb, (ChangesOnly.refl (· = .pc) s).skipIf rfl b⟩

/-- Settles O17: each of the six is a skip on its condition, the key skips when Vx names a key. -/
theorem skipsAdvanceByFourOrTwo : Obligations.SkipsAdvanceByFourOrTwo := by
  intro s x y kk
  refine ⟨?seImm, ?sneImm, ?seReg, ?sneReg, fun k hk => ⟨?skp, ?sknp⟩⟩
  case seImm | seReg => exact completes_skipIf rfl beq_iff_eq
  case sneImm | sneReg => exact completes_skipIf rfl bne_iff_ne
  case skp | sknp => exact completes_skipIf (skipOnKey_of_key hk _) beq_iff_eq

end Sys2Proof.Machine
end

section
/-! ## Arithmetic and logic
The frames of register writes, the numbers the flags stand for, and what each instruction of 42_alu.md R112 to R122
completes with. -/

namespace Sys2Proof.Safety

open Sys2Proof.Machine

variable {W : Component → Prop} {s t : State}

theorem ChangesOnly.setReg (h : ChangesOnly W s t) {x : RegIdx} (hx : W (.reg x)) (b : Byte) :
    ChangesOnly W s (t.setReg x b) := by
  intro c hc
  cases c with
  | reg j =>
    have hj : j ≠ x := by rintro rfl; exact hc hx
    exact (State.setReg_reg t x b j).trans ((if_neg hj).trans (h _ hc))
  | _ => exact h _ hc

/-- In either VF_WRITE_ORDER the two writes are to Vx and VF (42_alu.md R111). -/
theorem ChangesOnly.writeResultAndFlag (h : ChangesOnly W s t) {x : RegIdx} (hx : W (.reg x)) (hf : W (.reg VF))
    (r f : Byte) : ChangesOnly W s (t.writeResultAndFlag x r f) := by
  unfold State.writeResultAndFlag
  split
  case h_1 => exact (h.setReg hx r).setReg hf f
  case h_2 => exact (h.setReg hf f).setReg hx r

end Sys2Proof.Safety

namespace Sys2Proof.Machine

open Sys2Proof.Safety

/-! ### One register written -/

theorem State.reg_advance_setReg (s : State) (x : RegIdx) (b : Byte) : (s.setReg x b).advance.reg x = b := by
  rw [State.advance_reg, State.setReg_reg, if_pos rfl]

/-- An instruction that writes Vx and advances, with what is to be shown of the written state. -/
theorem completes_setReg {i : Instr} {s : State} {x : RegIdx} {b : Byte} {Q : State → Prop}
    (hi : exec i s = .next (s.setReg x b).advance) (hQ : Q (s.setReg x b).advance) :
    Completes i s (fun t => Q t ∧ PcMoved 2 s t ∧ ChangesOnly (fun c => c = .pc ∨ c = .reg x) s t) :=
  ⟨_, hi, hQ, pcMoved_advance (State.setReg_pc ..), ((ChangesOnly.refl _ s).setReg (.inr rfl) b).advance (.inl rfl)⟩

/-- Settles O21: both write Vx alone, the sum of 7XNN modulo 256. -/
theorem immediateLoadAndAdd : Obligations.ImmediateLoadAndAdd := by
  refine fun s x kk => ⟨completes_setReg rfl ?load, completes_setReg rfl ?add⟩
  case load => exact s.reg_advance_setReg x kk
  case add => rw [State.reg_advance_setReg, BitVec.toNat_add]

/-- Settles O22: each writes Vx alone, and the bits of or, and, exclusive or are those of the operands, bit by bit. -/
theorem moveAndBitwiseOperations : Obligations.MoveAndBitwiseOperations := by
  refine fun s x y => ⟨completes_setReg rfl ?move, completes_setReg rfl fun b => ?or,
    completes_setReg rfl fun b => ?and, completes_setReg rfl fun b => ?xor⟩
  case move => exact s.reg_advance_setReg x _
  case or => rw [State.reg_advance_setReg, BitVec.getLsbD_or]
  case and => rw [State.reg_advance_setReg, BitVec.getLsbD_and]
  case xor => rw [State.reg_advance_setReg, BitVec.getLsbD_xor]

/-! ### A result and its flag -/

/-- The two writes meet R111 in either order: when x is F the one that comes last stays. -/
theorem resultAndFlag_writeResultAndFlag (s : State) (x : RegIdx) (r f : Byte) :
    ResultAndFlag s (s.writeResultAndFlag x r f).advance x r.toNat f.toNat := by
  refine ⟨fun hx => ?other, ?isF⟩
  case other => simp [State.writeResultAndFlag_reg, VF, hx]
  case isF =>
    rintro rfl
    cases h : s.params.vfWriteOrder <;> simp [State.writeResultAndFlag_reg, VF, h]

/-- An instruction that writes a result and its flag and advances, for the numbers `m` and `n` they stand for. -/
theorem completes_writeResultAndFlag {i : Instr} {s : State} {x : RegIdx} {r f : Byte} {m n : Nat}
    (hi : exec i s = .next (s.writeResultAndFlag x r f).advance) (hr : r.toNat = m) (hf : f.toNat = n) :
    Completes i s (fun t => ResultAndFlag s t x m n ∧
      PcMoved 2 s t ∧ ChangesOnly (fun c => c = .pc ∨ c = .reg x ∨ c = .reg 15) s t) := by
  subst hr hf
  exact ⟨_, hi, resultAndFlag_writeResultAndFlag s x r f, pcMoved_advance (State.writeResultAndFlag_pc ..),
    ((ChangesOnly.refl _ s).writeResultAndFlag (.inr (.inl rfl)) (.inr (.inr rfl)) r f).advance (.inl rfl)⟩

/-! ### The flags and results as numbers -/

theorem toNat_carryFlag (a b : Byte) : (carryFlag a b).toNat = if 255 < a.toNat + b.toNat then 1 else 0 := by
  simp [carryFlag, toNat_flagByte]

theorem toNat_noBorrowFlag (a b : Byte) : (noBorrowFlag a b).toNat = if b.toNat ≤ a.toNat then 1 else 0 := by
  simp [noBorrowFlag, toNat_flagByte]

/-- A flag that is bit `i` of a byte. -/
theorem toNat_flagByte_getLsbD (b : Byte) (i : Nat) : (flagByte (b.getLsbD i)).toNat = b.toNat / 2 ^ i % 2 := by
  rw [toNat_flagByte, ← Nat.toNat_testBit, BitVec.getLsbD]
  cases b.toNat.testBit i <;> rfl

theorem toNat_lowBitFlag (b : Byte) : (lowBitFlag b).toNat = b.toNat % 2 := by
  rw [lowBitFlag, toNat_flagByte_getLsbD, Nat.pow_zero, Nat.div_one]

theorem toNat_highBitFlag (b : Byte) : (highBitFlag b).toNat = b.toNat / 128 := by
  have := b.isLt
  rw [highBitFlag, toNat_flagByte_getLsbD]
  omega

/-- The difference modulo 256, with the 256 that keeps it a natural number added first. -/
theorem toNat_byte_sub (a b : Byte) : (a - b).toNat = (256 + a.toNat - b.toNat) % 256 := by
  have := b.isLt
  rw [BitVec.toNat_sub]
  omega

theorem toNat_byte_shiftRight_one (b : Byte) : (b >>> 1).toNat = b.toNat / 2 := by
  rw [BitVec.toNat_ushiftRight, Nat.shiftRight_one]

theorem toNat_byte_shiftLeft_one (b : Byte) : (b <<< 1).toNat = b.toNat * 2 % 256 := by
  rw [BitVec.toNat_shiftLeft, Nat.shiftLeft_eq]

/-! ### The five instructions that write VF -/

/-- Settles O23: the result is the sum modulo 256, the flag its carry. -/
theorem addWithCarry : Obligations.AddWithCarry := fun _ _ _ =>
  completes_writeResultAndFlag rfl (BitVec.toNat_add ..) (toNat_carryFlag ..)

/-- Settles O24: the result is Vx - Vy modulo 256, the flag that it needs no borrow. -/
theorem subtractSetsNoBorrow : Obligations.SubtractSetsNoBorrow := fun _ _ _ =>
  completes_writeResultAndFlag rfl (toNat_byte_sub ..) (toNat_noBorrowFlag ..)

/-- Settles O25: the result is Vy halved, the flag its bit 0. -/
theorem shiftRightTakesVy : Obligations.ShiftRightTakesVy := fun _ _ _ =>
  completes_writeResultAndFlag rfl (toNat_byte_shiftRight_one _) (toNat_lowBitFlag _)

/-- Settles O26: the result is Vy - Vx modulo 256, the flag that it needs no borrow. -/
theorem reverseSubtractSetsNoBorrow : Obligations.ReverseSubtractSetsNoBorrow := fun _ _ _ =>
  completes_writeResultAndFlag rfl (toNat_byte_sub ..) (toNat_noBorrowFlag ..)

/-- Settles O27: the result is Vy doubled modulo 256, the flag its bit 7. -/
theorem shiftLeftTakesVy : Obligations.ShiftLeftTakesVy := fun _ _ _ =>
  completes_writeResultAndFlag rfl (toNat_byte_shiftLeft_one _) (toNat_highBitFlag _)

end Sys2Proof.Machine
end

section
/-! ## The index register
The frame of a write to I, the address of a glyph as a number, and the instructions of 43_index_memory.md section 1
that set I. -/

namespace Sys2Proof.Safety

open Sys2Proof.Machine

theorem ChangesOnly.setI {W : Component → Prop} {s t : State} (h : ChangesOnly W s t) (hi : W .index) (w : Word) :
    ChangesOnly W s (t.setI w) := by
  intro c hc
  cases c with
  | index => exact absurd hi hc
  | _ => exact h _ hc

end Sys2Proof.Safety

namespace Sys2Proof.Machine

open Sys2Proof.Safety

/-- An instruction that writes I and advances, for the number `n` the written word stands for. -/
theorem completes_setI {i : Instr} {s : State} {w : Word} {n : Nat}
    (hi : exec i s = .next (s.setI w).advance) (hw : w.toNat = n) :
    Completes i s (fun t => t.I.toNat = n ∧ PcMoved 2 s t ∧ ChangesOnly (fun c => c = .pc ∨ c = .index) s t) :=
  ⟨_, hi, hw, pcMoved_advance (State.setI_pc ..), ((ChangesOnly.refl _ s).setI (.inr rfl) w).advance (.inl rfl)⟩

/-- Five times a byte is at most 1275, so the product does not wrap at 16 bits. -/
theorem toNat_glyphAddress (b : Byte) : (glyphAddress b).toNat = b.toNat * 5 := by
  have hb : b.toNat * 5 < 2 ^ 16 := by have := b.isLt; omega
  calc (widen b * 5).toNat = (widen b).toNat * 5 % 2 ^ 16 := BitVec.toNat_mul ..
    _ = b.toNat * 5 := by rw [toNat_widen, Nat.mod_eq_of_lt hb]

/-- Settles O30: both write I alone, ANNN the address nnn and FX29 the glyph address of the whole byte Vx. -/
theorem indexLoads : Obligations.IndexLoads := fun _ _ _ =>
  ⟨completes_setI rfl (toNat_absolute _), completes_setI rfl (toNat_glyphAddress _)⟩

end Sys2Proof.Machine
end

section
/-! ## The display
The frame of showing a display, and the clear (44_display.md R141). -/

namespace Sys2Proof.Safety

open Sys2Proof.Machine

/-- Showing a display writes pixels and redraw (44_display.md R141, R143). -/
theorem ChangesOnly.present {W : Component → Prop} {s t : State} (h : ChangesOnly W s t) (hr : W .redraw)
    (hp : ∀ col row, W (.pixel col row)) (d : Display) : ChangesOnly W s (t.present d) := by
  intro c hc
  cases c with
  | redraw => exact absurd hr hc
  | pixel col row => exact absurd (hp col row) hc
  | _ => exact h _ hc

end Sys2Proof.Safety

namespace Sys2Proof.Machine

open Sys2Proof.Safety

/-- Settles O38: the blank display is shown, which sets redraw whatever was shown before; VF is not in the frame. -/
theorem clearTurnsEveryPixelOff : Obligations.ClearTurnsEveryPixelOff := by
  refine fun s => ⟨(s.present blankDisplay).advance, rfl, pixel_blankDisplay, State.present_redraw s blankDisplay,
    pcMoved_advance (State.present_pc s blankDisplay), ?frame⟩
  case frame =>
    exact ((ChangesOnly.refl _ s).present (.inr (.inl rfl)) (fun col row => .inr (.inr ⟨col, row, rfl⟩)) _).advance
      (.inl rfl)

end Sys2Proof.Machine
end

section
/-! ## The timers
The frames of writes to DT and ST, what a tick makes of them (60_exceptions.md R169), and the timer transfers
(45_timers_keys.md R152, R154, R155). -/

namespace Sys2Proof.Safety

open Sys2Proof.Machine

variable {W : Component → Prop} {s t : State}

theorem ChangesOnly.setDT (h : ChangesOnly W s t) (hd : W .delay) (b : Byte) : ChangesOnly W s (t.setDT b) := by
  intro c hc
  cases c with
  | delay => exact absurd hd hc
  | _ => exact h _ hc

theorem ChangesOnly.setST (h : ChangesOnly W s t) (hs : W .sound) (b : Byte) : ChangesOnly W s (t.setST b) := by
  intro c hc
  cases c with
  | sound => exact absurd hs hc
  | _ => exact h _ hc

end Sys2Proof.Safety

namespace Sys2Proof.Machine

open Sys2Proof.Safety

/-! ### The tick -/

/-- The truncated subtraction of `Nat` stops at 0, as the timer does. -/
theorem toNat_countDown (b : Byte) : (countDown b).toNat = b.toNat - 1 := by
  unfold countDown
  split
  case isTrue h => rw [h]; rfl
  case isFalse h => bv_omega

theorem timerTick_soundActive_iff (s : State) : (timerTick s).soundActive = true ↔ s.ST ≠ 0 :=
  bne_iff_ne

/-! ### The transfers -/

/-- Settles O42: FX07 is a register write; FX15 and FX18 write DT and ST alone, so the tick that follows counts the
copied byte down, and computes `sound_active` from the byte FX18 copied. -/
theorem timerTransfersCopyTheByte : Obligations.TimerTransfersCopyTheByte := by
  refine fun s x => ⟨completes_setReg rfl (s.reg_advance_setReg x s.DT),
    ⟨_, rfl, rfl, toNat_countDown _, pcMoved_advance (State.setDT_pc ..), ?delayFrame⟩,
    ⟨_, rfl, rfl, toNat_countDown _, timerTick_soundActive_iff _, pcMoved_advance (State.setST_pc ..), ?soundFrame⟩⟩
  case delayFrame => exact ((ChangesOnly.refl _ s).setDT (.inr rfl) _).advance (.inl rfl)
  case soundFrame => exact ((ChangesOnly.refl _ s).setST (.inr rfl) _).advance (.inl rfl)

end Sys2Proof.Machine
end

section
/-! ## The Frame and the host's reads
A run of unfaulted Steps followed by a tick is what a Frame does (60_exceptions.md R169, R170); the reads of the
framebuffer and of the two flags (60_exceptions.md R173, R174, R176). -/

namespace Sys2Proof.Safety

open Sys2Proof.Machine

variable {W : Component → Prop} {s t : State}

theorem ChangesOnly.timerTick (h : ChangesOnly W s t) (hd : W .delay) (hs : W .sound) (ha : W .soundActive) :
    ChangesOnly W s (timerTick t) := by
  intro c hc
  cases c with
  | delay => exact absurd hd hc
  | sound => exact absurd hs hc
  | soundActive => exact absurd ha hc
  | _ => exact h _ hc

end Sys2Proof.Safety

namespace Sys2Proof.Machine

open Sys2Proof.Safety

/-! ### Runs and the Frame -/

/-- A refused Step ends the run. -/
theorem run_succ_refused {s : State} {r : Refusal} (h : step s = .refused r) (k : Nat) :
    Host.Core.run Sys2Proof.core (k + 1) s = .refused r := by
  have e : Sys2Proof.core.step s = .refused r := h
  simp only [Host.Core.run, e]

/-- A run of at least one Step begins with a Step that answers a next state, and goes on from there. -/
theorem exists_step_of_run_succ {s t : State} {k : Nat} (h : Host.Core.run Sys2Proof.core (k + 1) s = .next t) :
    ∃ u, step s = .next u ∧ Host.Core.run Sys2Proof.core k u = .next t := by
  cases hs : step s with
  | next u => exact ⟨u, rfl, run_succ hs k ▸ h⟩
  | fault r => cases (run_succ_fault hs k).symm.trans h
  | refused r => cases (run_succ_refused hs k).symm.trans h

/-- A faulted machine takes no Step (60_exceptions.md R178), so a run that ends unfaulted began unfaulted. -/
theorem unfaulted_of_run {s t : State} {k : Nat} (h : Host.Core.run Sys2Proof.core k s = .next t) (ht : Unfaulted t) :
    Unfaulted s := by
  cases k with
  | zero => exact Host.Outcome.next.inj h ▸ ht
  | succ k =>
    obtain ⟨u, hu, -⟩ := exists_step_of_run_succ h
    exact (step_cases hu).1

/-- The rest of a Frame follows the run of its Steps, none of which faulted, and then ticks. -/
theorem frameSteps_of_run {t : State} (ht : Unfaulted t) {k : Nat} {s : State}
    (h : Host.Core.run Sys2Proof.core k s = .next t) : frameSteps k s = .next (timerTick t) := by
  induction k generalizing s with
  | zero => obtain rfl := Host.Outcome.next.inj h; rfl
  | succ k ih =>
    obtain ⟨u, hu, hrun⟩ := exists_step_of_run_succ h
    rw [frameSteps_succ hu (unfaulted_of_run hrun ht), ih hrun]

theorem frame_of_unfaulted {s : State} (h : Unfaulted s) : frame s = frameSteps cyclesPerFrame s := by
  simp only [frame, h]

/-- Settles O44: the tick field by field, its frame, and the Frame's nine Steps followed along their run. -/
theorem timerTickCountsDown : Obligations.TimerTickCountsDown := by
  refine fun s => ⟨toNat_countDown _, toNat_countDown _, timerTick_soundActive_iff s, ?changed, ?frame⟩
  case changed => exact (ChangesOnly.refl _ s).timerTick (.inl rfl) (.inr (.inl rfl)) (.inr (.inr rfl))
  case frame => exact fun t hs hrun ht => (frame_of_unfaulted hs).trans (frameSteps_of_run ht hrun)

/-! ### The host's reads
No read looks at the fault field or writes anything, so a faulted machine answers too (60_exceptions.md R178). -/

@[simp] theorem hostReply_readFramebuffer (s : State) : hostReply .readFramebuffer s = .framebuffer s.disp := rfl
@[simp] theorem hostReply_readRedraw (s : State) : hostReply .readRedraw s = .flag s.redraw := rfl
@[simp] theorem hostReply_readSoundActive (s : State) : hostReply .readSoundActive s = .flag s.soundActive := rfl

@[simp] theorem hostOp_readFramebuffer (s : State) : hostOp .readFramebuffer s = .next s := rfl
@[simp] theorem hostOp_readRedraw (s : State) : hostOp .readRedraw s = .next s := rfl
@[simp] theorem hostOp_readSoundActive (s : State) : hostOp .readSoundActive s = .next s := rfl

/-- Settles O47: the answer and the state of each of the three reads. -/
theorem hostReadsReturnAndChangeNothing : Obligations.HostReadsReturnAndChangeNothing := fun s =>
  ⟨hostReply_readFramebuffer s, hostOp_readFramebuffer s, hostReply_readSoundActive s, hostOp_readSoundActive s,
    hostReply_readRedraw s, hostOp_readRedraw s⟩

end Sys2Proof.Machine
end

section
/-! ## Encoding
The fields of a word as numbers and the word its fields make again (30_encoding.md R61), the unrecognized space as
numbers (R69), and the decoder and the encoder as inverses of each other. -/

namespace Sys2Proof.Machine

open Sys2Proof.Config

/-! ### The fields of a word as numbers -/

theorem toNat_opField (w : Word) : (opField w).toNat = w.toNat / 4096 := by
  have := w.isLt
  rw [opField, BitVec.extractLsb'_toNat, Nat.shiftRight_eq_div_pow]
  omega

theorem toNat_nField (w : Word) : (nField w).toNat = w.toNat % 16 := by
  rw [nField, BitVec.extractLsb'_toNat, Nat.shiftRight_zero]

theorem toNat_kkField (w : Word) : (kkField w).toNat = w.toNat % 256 := by
  rw [kkField, BitVec.extractLsb'_toNat, Nat.shiftRight_zero]

theorem toNat_nnnField (w : Word) : (nnnField w).toNat = w.toNat % 4096 := by
  rw [nnnField, BitVec.extractLsb'_toNat, Nat.shiftRight_zero]

theorem val_xField (w : Word) : (xField w).val = w.toNat / 256 % 16 := by
  show (w.extractLsb' 8 4).toNat = _
  rw [BitVec.extractLsb'_toNat, Nat.shiftRight_eq_div_pow]

theorem val_yField (w : Word) : (yField w).val = w.toNat / 16 % 16 := by
  show (w.extractLsb' 4 4).toNat = _
  rw [BitVec.extractLsb'_toNat, Nat.shiftRight_eq_div_pow]

/-! ### A word from its fields -/

theorem formNNN_fields (w : Word) : formNNN (opField w) (nnnField w) = w := by
  refine BitVec.eq_of_getLsbD_eq fun i hi => ?_
  rw [getLsbD_formNNN, opField, nnnField, BitVec.getLsbD_extractLsb', BitVec.getLsbD_extractLsb']
  interval_cases i <;> simp

theorem formXKK_fields (w : Word) : formXKK (opField w) (xField w) (kkField w) = w := by
  refine BitVec.eq_of_getLsbD_eq fun i hi => ?_
  rw [getLsbD_formXKK, opField, xField, kkField, BitVec.ofFin_toFin]
  simp only [BitVec.getLsbD_extractLsb']
  interval_cases i <;> simp

theorem formXYN_fields (w : Word) : formXYN (opField w) (xField w) (yField w) (nField w) = w := by
  refine BitVec.eq_of_getLsbD_eq fun i hi => ?_
  rw [getLsbD_formXYN, opField, xField, yField, nField, BitVec.ofFin_toFin, BitVec.ofFin_toFin]
  simp only [BitVec.getLsbD_extractLsb']
  interval_cases i <;> simp

section
variable {w : Word} {op : BitVec 4} (hop : (opField w).toNat = op.toNat)
include hop

theorem formNNN_eq_of_op : formNNN op (nnnField w) = w := by
  rw [← BitVec.eq_of_toNat_eq hop, formNNN_fields]

theorem formXKK_eq_of_op : formXKK op (xField w) (kkField w) = w := by
  rw [← BitVec.eq_of_toNat_eq hop, formXKK_fields]

theorem formXKK_eq_of_op_kk {kk : Byte} (hkk : (kkField w).toNat = kk.toNat) : formXKK op (xField w) kk = w := by
  rw [← BitVec.eq_of_toNat_eq hkk, formXKK_eq_of_op hop]

theorem formXYN_eq_of_op_n {n : BitVec 4} (hn : (nField w).toNat = n.toNat) :
    formXYN op (xField w) (yField w) n = w := by
  rw [← BitVec.eq_of_toNat_eq hop, ← BitVec.eq_of_toNat_eq hn, formXYN_fields]

end

/-! ### The groups with a decoder of their own -/

section
variable (sk : SkipRRDecode) {w : Word}

theorem decodeWord_op0 (hop : (opField w).toNat = 0) : decodeWord sk w = decodeGroup0 w := by
  simp only [decodeWord, hop]

theorem decodeWord_op5 (hop : (opField w).toNat = 5) : decodeWord sk w = decodeSkipRR sk w .seReg := by
  simp only [decodeWord, hop]

theorem decodeWord_op8 (hop : (opField w).toNat = 8) : decodeWord sk w = decodeGroup8 w := by
  simp only [decodeWord, hop]

theorem decodeWord_op9 (hop : (opField w).toNat = 9) : decodeWord sk w = decodeSkipRR sk w .sneReg := by
  simp only [decodeWord, hop]

theorem decodeWord_opE (hop : (opField w).toNat = 0xE) : decodeWord sk w = decodeGroupE w := by
  simp only [decodeWord, hop]

theorem decodeWord_opF (hop : (opField w).toNat = 0xF) : decodeWord sk w = decodeGroupF w := by
  simp only [decodeWord, hop]

end

/-- Group 0 less its two recognized words is SYS (30_encoding.md R64). -/
theorem decodeGroup0_sys {w : Word} (hcls : nnnField w ≠ 0x0E0) (hret : nnnField w ≠ 0x0EE) :
    decodeGroup0 w = .sys (nnnField w) := by
  unfold decodeGroup0
  split
  case h_1 h => exact absurd (BitVec.eq_of_toNat_eq h) hcls
  case h_2 h => exact absurd (BitVec.eq_of_toNat_eq h) hret
  case h_3 => rfl

/-! ### Decoded instructions are well formed -/

/-- 30_encoding.md R69's list, less its first line, as the numbers in the fields. -/
theorem isUnrecognized_iff (sk : SkipRRDecode) (w : Word) : isUnrecognized sk w = true ↔
    (((opField w).toNat = 5 ∨ (opField w).toNat = 9) ∧ (nField w).toNat ≠ 0 ∧ sk = .strict) ∨
    ((opField w).toNat = 8 ∧ (nField w).toNat ∈ [0x8, 0x9, 0xA, 0xB, 0xC, 0xD, 0xF]) ∨
    ((opField w).toNat = 0xE ∧ (kkField w).toNat ∉ [0x9E, 0xA1]) ∨
    ((opField w).toNat = 0xF ∧ (kkField w).toNat ∉ [0x07, 0x0A, 0x15, 0x18, 0x1E, 0x29, 0x33, 0x55, 0x65]) := by
  unfold isUnrecognized
  split
  case h_1 hop | h_2 hop => simp [hop, and_comm, ← BitVec.toNat_inj]
  case h_3 hop | h_4 hop | h_5 hop => simp only [hop]; split <;> simp_all
  case h_6 => simp_all

theorem wellFormed_decodeGroup0 (sk : SkipRRDecode) (w : Word) : (decodeGroup0 w).wellFormed sk = true := by
  unfold decodeGroup0
  split
  case h_3 hcls hret =>
    exact Bool.and_eq_true_iff.2 ⟨bne_iff_ne.2 fun e => hcls (congrArg BitVec.toNat e),
      bne_iff_ne.2 fun e => hret (congrArg BitVec.toNat e)⟩
  all_goals rfl

theorem wellFormed_decodeSkipRR {sk : SkipRRDecode} {w : Word} (hop : (opField w).toNat = 5 ∨ (opField w).toNat = 9)
    {skip : RegIdx → RegIdx → Instr} (hskip : ∀ x y, (skip x y).wellFormed sk = true) :
    (decodeSkipRR sk w skip).wellFormed sk = true := by
  unfold decodeSkipRR
  split
  case isTrue => exact hskip _ _
  case isFalse hn =>
    cases sk with
    | strict => exact (isUnrecognized_iff _ w).2 (.inl ⟨hop, fun e => hn (BitVec.eq_of_toNat_eq e), rfl⟩)
    | ignoreLowNibble => exact hskip _ _

theorem wellFormed_decodeGroup8 (sk : SkipRRDecode) {w : Word} (hop : (opField w).toNat = 8) :
    (decodeGroup8 w).wellFormed sk = true := by
  have hlt := (nField w).isLt
  unfold decodeGroup8
  split
  case h_10 =>
    refine (isUnrecognized_iff sk w).2 (.inr (.inl ⟨hop, ?_⟩))
    simp only [List.mem_cons, List.not_mem_nil, or_false, imp_false] at *
    omega
  all_goals rfl

theorem wellFormed_decodeGroupE (sk : SkipRRDecode) {w : Word} (hop : (opField w).toNat = 0xE) :
    (decodeGroupE w).wellFormed sk = true := by
  unfold decodeGroupE
  split
  case h_3 => exact (isUnrecognized_iff sk w).2 (.inr (.inr (.inl ⟨hop, by simp_all⟩)))
  all_goals rfl

theorem wellFormed_decodeGroupF (sk : SkipRRDecode) {w : Word} (hop : (opField w).toNat = 0xF) :
    (decodeGroupF w).wellFormed sk = true := by
  unfold decodeGroupF
  split
  case h_10 => exact (isUnrecognized_iff sk w).2 (.inr (.inr (.inr ⟨hop, by simp_all⟩)))
  all_goals rfl

/-- Settles O4: only the groups 0, 5, 8, 9, E and F decode to a constructor with a check, and each keeps to it. -/
theorem decodedInstructionIsWellFormed : Obligations.DecodedInstructionIsWellFormed := by
  intro sk w
  have hlt := (opField w).isLt
  unfold decodeWord
  split
  case h_1 => exact wellFormed_decodeGroup0 sk w
  case h_6 hop => exact wellFormed_decodeSkipRR (.inl hop) fun _ _ => rfl
  case h_9 hop => exact wellFormed_decodeGroup8 sk hop
  case h_10 hop => exact wellFormed_decodeSkipRR (.inr hop) fun _ _ => rfl
  case h_15 hop => exact wellFormed_decodeGroupE sk hop
  case h_16 =>
    simp only [imp_false] at *
    exact wellFormed_decodeGroupF sk (by omega)
  all_goals rfl

/-! ### Decode after encode -/

/-- A word of the unrecognized space decodes to the no-op that carries it. -/
theorem decodeWord_unrecognized {sk : SkipRRDecode} {w : Word} (h : isUnrecognized sk w = true) :
    decodeWord sk w = .unrecognized w := by
  rcases (isUnrecognized_iff sk w).1 h with ⟨hop | hop, hn, rfl⟩ | ⟨hop, hn⟩ | ⟨hop, hkk⟩ | ⟨hop, hkk⟩
  · rw [decodeWord_op5 _ hop]
    exact if_neg fun e => hn (congrArg BitVec.toNat e)
  · rw [decodeWord_op9 _ hop]
    exact if_neg fun e => hn (congrArg BitVec.toNat e)
  · rw [decodeWord_op8 sk hop, decodeGroup8]
    split <;> simp_all
  · rw [decodeWord_opE sk hop, decodeGroupE]
    split <;> simp_all
  · rw [decodeWord_opF sk hop, decodeGroupF]
    split <;> simp_all

theorem decodeWord_encode_sys (sk : SkipRRDecode) {nnn : Addr12} (hcls : nnn ≠ 0x0E0) (hret : nnn ≠ 0x0EE) :
    decodeWord sk (encode (.sys nnn)) = .sys nnn := by
  have hop : (opField (formNNN 0 nnn)).toNat = 0 := congrArg BitVec.toNat (opField_formNNN 0 nnn)
  have hnnn : nnnField (formNNN 0 nnn) = nnn := nnnField_formNNN 0 nnn
  rw [encode, decodeWord_op0 sk hop, decodeGroup0_sys (by rwa [hnnn]) (by rwa [hnnn]), hnnn]

/-- Settles O2: an encoded word has its instruction's op and operands in its fields, so its group reads them back; the
two no-op constructors need their check. -/
theorem decodeAfterEncodeIsIdentity : Obligations.DecodeAfterEncodeIsIdentity := by
  intro sk i hi
  cases i with
  | sys nnn =>
    obtain ⟨hcls, hret⟩ := Bool.and_eq_true_iff.1 hi
    exact decodeWord_encode_sys sk (bne_iff_ne.1 hcls) (bne_iff_ne.1 hret)
  | unrecognized w => exact decodeWord_unrecognized hi
  | cls | ret => rfl
  | jp | call | seImm | sneImm | ldImm | addImm | ldI | jpV0 | rnd | drw => simp [encode, decodeWord]
  | seReg | sneReg => simp [encode, decodeWord, decodeSkipRR]
  | ldReg | orReg | andReg | xorReg | addReg | subReg | shrReg | subnReg | shlReg =>
    simp [encode, decodeWord, decodeGroup8]
  | skp | sknp => simp [encode, decodeWord, decodeGroupE]
  | ldVxDt | ldVxK | ldDtVx | ldStVx | addIVx | ldFVx | ldBVx | ldMemVx | ldVxMem =>
    simp [encode, decodeWord, decodeGroupF]

/-! ### Encode after decode -/

section
variable {w : Word}

theorem encode_decodeGroup0 (hop : (opField w).toNat = 0) : encode (decodeGroup0 w) = w := by
  have hw : formNNN 0 (nnnField w) = w := formNNN_eq_of_op hop
  unfold decodeGroup0
  split
  case h_1 h => rw [← hw, BitVec.eq_of_toNat_eq (y := 0x0E0) h]; decide
  case h_2 h => rw [← hw, BitVec.eq_of_toNat_eq (y := 0x0EE) h]; decide
  case h_3 => exact hw

theorem encode_decodeSkipRR_strict {skip : RegIdx → RegIdx → Instr}
    (hskip : nField w = 0 → encode (skip (xField w) (yField w)) = w) : encode (decodeSkipRR .strict w skip) = w := by
  unfold decodeSkipRR
  split
  case isTrue hn => exact hskip hn
  case isFalse => rfl

theorem encode_decodeGroup8 (hop : (opField w).toNat = 8) : encode (decodeGroup8 w) = w := by
  unfold decodeGroup8
  split
  case h_10 => rfl
  all_goals exact formXYN_eq_of_op_n hop ‹_›

theorem encode_decodeGroupE (hop : (opField w).toNat = 0xE) : encode (decodeGroupE w) = w := by
  unfold decodeGroupE
  split
  case h_3 => rfl
  all_goals exact formXKK_eq_of_op_kk hop ‹_›

theorem encode_decodeGroupF (hop : (opField w).toNat = 0xF) : encode (decodeGroupF w) = w := by
  unfold decodeGroupF
  split
  case h_10 => rfl
  all_goals exact formXKK_eq_of_op_kk hop ‹_›

end

/-- Settles O3: group by group, the fields the decoder keeps and the ones it has tested make the word again. -/
theorem encodeAfterDecodeIsIdentityWhenStrict : Obligations.EncodeAfterDecodeIsIdentityWhenStrict := by
  intro w
  have hlt := (opField w).isLt
  unfold decodeWord
  split
  case h_1 hop => exact encode_decodeGroup0 hop
  case h_2 hop | h_3 hop | h_11 hop | h_12 hop => exact formNNN_eq_of_op hop
  case h_4 hop | h_5 hop | h_7 hop | h_8 hop | h_13 hop => exact formXKK_eq_of_op hop
  case h_6 hop | h_10 hop =>
    exact encode_decodeSkipRR_strict fun hn => formXYN_eq_of_op_n hop (congrArg BitVec.toNat hn)
  case h_9 hop => exact encode_decodeGroup8 hop
  case h_14 hop => exact formXYN_eq_of_op_n hop rfl
  case h_15 hop => exact encode_decodeGroupE hop
  case h_16 =>
    simp only [imp_false] at *
    exact encode_decodeGroupF (by omega)

/-! ### The rows of the opcode map
A mask that covers a field leaves the field of a matching word equal to the field of the match. -/

section
variable {w m v : Word} (h : w &&& m = v)
include h

theorem toNat_opField_of_mask (hm : opField m = BitVec.allOnes 4) : (opField w).toNat = (opField v).toNat := by
  rw [← h, opField, opField, BitVec.extractLsb'_and, show m.extractLsb' 12 4 = _ from hm, BitVec.and_allOnes]

theorem nField_of_mask (hm : nField m = BitVec.allOnes 4) : nField w = nField v := by
  rw [← h, nField, nField, BitVec.extractLsb'_and, show m.extractLsb' 0 4 = _ from hm, BitVec.and_allOnes]

theorem kkField_of_mask (hm : kkField m = BitVec.allOnes 8) : kkField w = kkField v := by
  rw [← h, kkField, kkField, BitVec.extractLsb'_and, show m.extractLsb' 0 8 = _ from hm, BitVec.and_allOnes]

end

theorem decodeWord_sys (sk : SkipRRDecode) {w : Word} (hop : (opField w).toNat = 0) (hcls : w ≠ 0x00E0)
    (hret : w ≠ 0x00EE) : decodeWord sk w = .sys (nnnField w) := by
  have hw : formNNN 0 (nnnField w) = w := formNNN_eq_of_op hop
  have hne (nnn : Addr12) (h : w ≠ formNNN 0 nnn) : nnnField w ≠ nnn := fun e => h (e ▸ hw.symm)
  rw [decodeWord_op0 sk hop, decodeGroup0_sys (hne _ hcls) (hne _ hret)]

/-- Settles O5: the mask of a row fixes the fields that the decoder tests, and the operands are the fields it keeps. -/
theorem opcodeMapRowsDecode : Obligations.OpcodeMapRowsDecode := by
  intro sk w x y n kk nnn hx hy hn hkk hnnn
  obtain rfl : x = xField w := Fin.ext (hx.trans (val_xField w).symm)
  obtain rfl : y = yField w := Fin.ext (hy.trans (val_yField w).symm)
  obtain rfl : n = (nField w).toFin := Fin.ext (hn.trans (toNat_nField w).symm)
  obtain rfl : kk = kkField w := BitVec.eq_of_toNat_eq (hkk.trans (toNat_kkField w).symm)
  obtain rfl : nnn = nnnField w := BitVec.eq_of_toNat_eq (hnnn.trans (toNat_nnnField w).symm)
  refine ⟨?sys, ?cls, ?ret, ?jp, ?call, ?seImm, ?sneImm, ?seReg, ?seRegAny, ?ldImm, ?addImm, ?ldReg, ?orReg, ?andReg,
    ?xorReg, ?addReg, ?subReg, ?shrReg, ?subnReg, ?shlReg, ?sneReg, ?sneRegAny, ?ldI, ?jpV0, ?rnd, ?drw, ?skp, ?sknp,
    ?ldVxDt, ?ldVxK, ?ldDtVx, ?ldStVx, ?addIVx, ?ldFVx, ?ldBVx, ?ldMemVx, ?ldVxMem⟩
  case cls | ret => rintro rfl; rfl
  all_goals intro h
  case sys => exact decodeWord_sys sk (toNat_opField_of_mask h rfl)
  case jp | call | seImm | sneImm | ldImm | addImm | ldI | jpV0 | rnd | drw =>
    rw [decodeWord, toNat_opField_of_mask h rfl]; rfl
  case seReg => rw [decodeWord_op5 sk (toNat_opField_of_mask h rfl)]; exact if_pos (nField_of_mask h rfl)
  case sneReg => rw [decodeWord_op9 sk (toNat_opField_of_mask h rfl)]; exact if_pos (nField_of_mask h rfl)
  case seRegAny => rw [decodeWord_op5 _ (toNat_opField_of_mask h rfl)]; exact ite_self _
  case sneRegAny => rw [decodeWord_op9 _ (toNat_opField_of_mask h rfl)]; exact ite_self _
  case ldReg | orReg | andReg | xorReg | addReg | subReg | shrReg | subnReg | shlReg =>
    rw [decodeWord_op8 sk (toNat_opField_of_mask h rfl), decodeGroup8, nField_of_mask h rfl]; rfl
  case skp | sknp => rw [decodeWord_opE sk (toNat_opField_of_mask h rfl), decodeGroupE, kkField_of_mask h rfl]; rfl
  case ldVxDt | ldVxK | ldDtVx | ldStVx | addIVx | ldFVx | ldBVx | ldMemVx | ldVxMem =>
    rw [decodeWord_opF sk (toNat_opField_of_mask h rfl), decodeGroupF, kkField_of_mask h rfl]; rfl

/-! ### The unrecognized space -/

theorem decodeWord_eq_unrecognized_iff (sk : SkipRRDecode) (w : Word) :
    decodeWord sk w = .unrecognized w ↔ isUnrecognized sk w = true := by
  refine ⟨fun h => ?_, decodeWord_unrecognized⟩
  have hwf := decodedInstructionIsWellFormed sk w
  rwa [h] at hwf

/-- The parameter matters only where a word decodes to a register skip (30_encoding.md R66). -/
theorem decodeWord_eq_strict_or_skip (sk : SkipRRDecode) (w : Word) :
    decodeWord sk w = decodeWord .strict w ∨ ∃ x y, decodeWord sk w = .seReg x y ∨ decodeWord sk w = .sneReg x y := by
  cases sk with
  | strict => exact .inl rfl
  | ignoreLowNibble =>
    unfold decodeWord
    split
    case h_6 => exact .inr ⟨_, _, .inl (ite_self _)⟩
    case h_10 => exact .inr ⟨_, _, .inr (ite_self _)⟩
    all_goals exact .inl rfl

/-- A word that decodes to SYS is that SYS encoded. -/
theorem eq_encode_of_decodeWord_sys {sk : SkipRRDecode} {w : Word} {nnn : Addr12} (h : decodeWord sk w = .sys nnn) :
    w = encode (.sys nnn) := by
  rcases decodeWord_eq_strict_or_skip sk w with hs | ⟨x, y, hs | hs⟩
  · rw [← h, hs, encodeAfterDecodeIsIdentityWhenStrict w]
  · rw [h] at hs; cases hs
  · rw [h] at hs; cases hs

theorem exists_decodeWord_sys_iff (sk : SkipRRDecode) (w : Word) :
    (∃ nnn, decodeWord sk w = .sys nnn) ↔ w.toNat < 0x1000 ∧ w ≠ 0x00E0 ∧ w ≠ 0x00EE := by
  constructor
  · rintro ⟨nnn, h⟩
    refine ⟨?low, ?notCls, ?notRet⟩
    case low =>
      have hop : (opField w).toNat = 0 := by rw [eq_encode_of_decodeWord_sys h, encode, opField_formNNN]; rfl
      rw [toNat_opField] at hop
      omega
    case notCls | notRet => rintro rfl; cases h
  · rintro ⟨hlow, hcls, hret⟩
    exact ⟨_, decodeWord_sys sk (by rw [toNat_opField]; omega) hcls hret⟩

/-- Settles O6: a word that decodes to SYS is its encoding, and one that decodes to itself is well formed, so of R69's
list. -/
theorem unrecognizedSpaceIsExact : Obligations.UnrecognizedSpaceIsExact := by
  refine fun sk w => ⟨exists_decodeWord_sys_iff sk w, ?_⟩
  rw [decodeWord_eq_unrecognized_iff, isUnrecognized_iff, toNat_opField, toNat_nField, toNat_kkField]

/-- Settles O1: the decoder run on each word; the parameter is tested only where the low nibble is not 0. -/
theorem specWordsDecodeToTheirInstructions : Obligations.SpecWordsDecodeToTheirInstructions := by
  intro sk
  cases sk <;> decide

end Sys2Proof.Machine
end

section
/-! ## No-ops, BNNN, FX1E, CXNN and the key skips that fault
The frames of a raised fault and of a draw from RAND, and what these instructions complete with (40_execution_cycle.md
R85, 41_control_flow.md R99, 43_index_memory.md R131, 42_alu.md R123, 45_timers_keys.md R150 and R151). -/

namespace Sys2Proof.Safety

open Sys2Proof.Machine

variable {W : Component → Prop} {s t : State}

theorem ChangesOnly.mono (h : ChangesOnly W s t) {W' : Component → Prop} (hW : ∀ c, W c → W' c) :
    ChangesOnly W' s t :=
  fun c hc => h c (mt (hW c) hc)

theorem Raised.changesOnly {code : FaultCode} {info : Nat} (h : Raised code info s t) (hf : W .fault) :
    ChangesOnly W s t :=
  ChangesOnly.mono h.2 (by rintro c rfl; exact hf)

theorem ChangesOnly.drawTaken (h : ChangesOnly W s t) (hd : W .draws) : ChangesOnly W s t.drawTaken := by
  intro c hc
  cases c with
  | draws => exact absurd hd hc
  | _ => exact h _ hc

theorem ChangesOnly.randomInto (h : ChangesOnly W s t) {x : RegIdx} (hx : W (.reg x)) (hd : W .draws) (hpc : W .pc)
    (d kk : Byte) : ChangesOnly W s (randomInto d x kk t) :=
  ((h.drawTaken hd).setReg hx _).advance hpc

end Sys2Proof.Safety

namespace Sys2Proof.Machine

open Sys2Proof.Safety

/-- An instruction that only advances. -/
theorem completes_advance {i : Instr} {s : State} (hi : exec i s = .next s.advance) :
    Completes i s (fun t => PcMoved 2 s t ∧ ChangesOnly (· = .pc) s t) :=
  ⟨_, hi, pcMoved_advance rfl, (ChangesOnly.refl (· = .pc) s).advance rfl⟩

/-- Settles O13: both no-op constructors only advance. -/
theorem noOpWordsOnlyAdvance : Obligations.NoOpWordsOnlyAdvance := fun _ _ _ =>
  ⟨completes_advance rfl, completes_advance rfl⟩

/-- The largest sum is FFF + FF, so it does not wrap at 16 bits. -/
theorem toNat_absolute_add_widen (nnn : Addr12) (b : Byte) : (absolute nnn + widen b).toNat = nnn.toNat + b.toNat := by
  have hn := nnn.isLt
  have hb := b.isLt
  rw [BitVec.toNat_add, toNat_absolute, toNat_widen]
  omega

/-- Settles O19: BNNN writes pc alone, with a sum that does not wrap. -/
theorem indexedJumpAddsV0 : Obligations.IndexedJumpAddsV0 := fun s nnn =>
  ⟨_, rfl, toNat_absolute_add_widen nnn (s.reg 0), (ChangesOnly.refl (· = .pc) s).setPc rfl _⟩

/-- Settles O31: FX1E writes I alone, the sum modulo 65536. -/
theorem indexAddWrapsAtSixteenBits : Obligations.IndexAddWrapsAtSixteenBits := fun s x =>
  completes_setI rfl (by rw [BitVec.toNat_add, toNat_widen])

/-- A key skip when Vx names no key (45_timers_keys.md R150, R151). -/
theorem skipOnKey_of_noKey {s : State} {x : RegIdx} (h : 15 < (s.reg x).toNat) (pressed : Bool) :
    skipOnKey pressed x s = .next (s.raise .keyIndexOutOfRange (s.reg x).toNat) := by
  rw [skipOnKey, State.keyOperand_none h]

/-- Settles O18: a Vx above 15 names no key, so both key skips raise the fault. -/
theorem keyIndexAboveFifteenFaults : Obligations.KeyIndexAboveFifteenFaults := fun _ _ h =>
  ⟨⟨_, skipOnKey_of_noKey h true, raised_raise ..⟩, ⟨_, skipOnKey_of_noKey h false, raised_raise ..⟩⟩

theorem randomInto_reg (d : Byte) (x : RegIdx) (kk : Byte) (s : State) : (randomInto d x kk s).reg x = d &&& kk :=
  State.reg_advance_setReg s.drawTaken x (d &&& kk)

/-- Settles O28: CXNN is `randomInto` of the next byte of RAND, and `randomInto` of any byte masks it, takes one draw
and advances. -/
theorem randomByteIsMaskedFreshDraw : Obligations.RandomByteIsMaskedFreshDraw := by
  refine fun s x kk => ⟨⟨_, rfl, rfl, rfl⟩, fun d => ⟨fun b => ?mask, pcMoved_advance rfl, ?frame⟩⟩
  case mask => rw [randomInto_reg, BitVec.getLsbD_and]
  case frame => exact (ChangesOnly.refl _ s).randomInto (.inr (.inl rfl)) (.inr (.inr rfl)) (.inl rfl) d kk

end Sys2Proof.Machine
end

section
/-! ## One Step
What a Step does on an unfaulted machine whose instruction lies in memory, past the last word, and on a faulted machine
(40_execution_cycle.md R80 to R83, 60_exceptions.md R178). -/

namespace Sys2Proof.Machine

open Sys2Proof.Safety

/-- A Step of an unfaulted machine runs the instruction of the word that fetch answers. -/
theorem step_of_fetch {s : State} {w : Word} (hf : Unfaulted s) (hw : s.fetch = some w) :
    step s = exec (decodeWord s.params.skipRRDecode w) s := by
  rw [step, hf, hw]

/-- Where both bytes lie in memory, fetch answers their word (40_execution_cycle.md R80, R81). -/
theorem step_of_unfaulted {s : State} (hf : Unfaulted s) (hpc : s.pc.toNat ≤ 0xFFE) :
    step s = exec (decodeWord s.params.skipRRDecode
      (wordOfBytes (Memory.read s.mem s.pc.toNat) (Memory.read s.mem (s.pc.toNat + 1)))) s :=
  step_of_fetch hf (State.fetch_some hpc)

/-- Settles O8: the instruction that the two bytes decode to is the one the Step runs. -/
theorem stepRunsTheDecodedInstruction : Obligations.StepRunsTheDecodedInstruction := by
  intro s i hf hpc hdec
  obtain ⟨hi, -⟩ := Prod.mk.inj (Except.ok.inj hdec)
  rw [step_of_unfaulted hf hpc, hi]

/-- Settles O9: past the last word the Step raises the fetch fault. -/
theorem fetchPastTheEndFaults : Obligations.FetchPastTheEndFaults := fun _ hf hpc =>
  ⟨_, step_fetchFault hf hpc, raised_raise ..⟩

theorem step_of_faulted {s : State} {r : FaultRecord} (h : s.fault = some r) : step s = .fault (.faulted r) := by
  rw [step, h]

theorem frame_of_faulted {s : State} {r : FaultRecord} (h : s.fault = some r) : frame s = .fault (.faulted r) := by
  rw [frame, h]

/-- Settles O10: Step and Frame look at the fault field first. -/
theorem faultedMachineHasNoTransition : Obligations.FaultedMachineHasNoTransition := fun _ _ h =>
  ⟨step_of_faulted h, frame_of_faulted h⟩

end Sys2Proof.Machine
end

section
/-! ## Transfers between registers and memory
The frames of replacing memory and the registers, the range check of the four accesses from I (20_memory.md R46), and
FX33, FX55 and FX65 in range (43_index_memory.md R133 to R135). -/

namespace Sys2Proof.Safety

open Sys2Proof.Machine

variable {W : Component → Prop} {s t : State}

theorem ChangesOnly.setMem (h : ChangesOnly W s t) {m : Memory}
    (hm : ∀ a, ¬ W (.byte a) → Memory.read m a = Memory.read t.mem a) : ChangesOnly W s (t.setMem m) := by
  intro c hc
  cases c with
  | byte a => exact (hm a hc).trans (h _ hc)
  | _ => exact h _ hc

/-- Consecutive bytes stored from `a` on. -/
theorem ChangesOnly.writeBytes (h : ChangesOnly W s t) {a : Nat} {bs : List Byte}
    (hW : ∀ k < bs.length, W (.byte (a + k))) : ChangesOnly W s (t.setMem (Memory.writeBytes t.mem a bs)) := by
  refine h.setMem fun a' ha' => Memory.read_writeBytes_ne t.mem ?_
  by_contra hin
  obtain ⟨k, rfl⟩ : ∃ k, a' = a + k := ⟨a' - a, by omega⟩
  exact ha' (hW k (by omega))

theorem ChangesOnly.setRegs (h : ChangesOnly W s t) {v : Vector Byte 16}
    (hv : ∀ j : RegIdx, ¬ W (.reg j) → v[j] = t.reg j) : ChangesOnly W s (t.setRegs v) := by
  intro c hc
  cases c with
  | reg j => exact (hv j hc).trans (h _ hc)
  | _ => exact h _ hc

theorem ChangesOnly.storeDigits (hpc : W .pc) (hW : ∀ k < 3, W (.byte (s.I.toNat + k))) (x : RegIdx) :
    ChangesOnly W s (storeDigits x s) :=
  ((ChangesOnly.refl W s).writeBytes (bs := decimalDigits (s.reg x)) hW).advance hpc

theorem ChangesOnly.storeRegs {x : RegIdx} (hpc : W .pc) (hi : W .index)
    (hW : ∀ k ≤ x.val, W (.byte (s.I.toNat + k))) : ChangesOnly W s (storeRegs x s) := by
  refine (((ChangesOnly.refl W s).writeBytes fun k hk => hW k ?_).setI hi _).advance hpc
  rw [State.length_regsUpTo] at hk
  omega

theorem ChangesOnly.fillRegs {x : RegIdx} (hpc : W .pc) (hi : W .index) (hW : ∀ k ≤ x, W (.reg k)) :
    ChangesOnly W s (fillRegs x s) := by
  refine (((ChangesOnly.refl W s).setRegs fun j hj => ?_).setI hi _).advance hpc
  have hxj : ¬ j.val < x.val + 1 := fun hlt => hj (hW j (Nat.le_of_lt_succ hlt))
  exact (getElem_loadRegs ..).trans (if_neg hxj)

end Sys2Proof.Safety

namespace Sys2Proof.Machine

open Sys2Proof.Safety

/-! ### Out of range -/

theorem completes_accessAtI_fault {i : Instr} {s : State} {n : Nat} {e : State → State}
    (hi : exec i s = accessAtI n e s) (h : 0 < n ∧ 0x1000 < s.I.toNat + n) :
    Completes i s (Raised .memOutOfRange s.I.toNat s) :=
  ⟨_, hi.trans (accessAtI_fault h e), raised_raise ..⟩

/-- Settles O35: the four instructions are accesses from I to 3, x + 1, x + 1 and n bytes, and an access out of range
raises the fault. -/
theorem outOfRangeAccessFaultsBeforeAnyWrite : Obligations.OutOfRangeAccessFaultsBeforeAnyWrite := by
  refine fun s x y n => ⟨fun h => completes_accessAtI_fault rfl ?_, fun h => completes_accessAtI_fault rfl ?_,
    fun h => completes_accessAtI_fault rfl ?_, fun hn h => completes_accessAtI_fault rfl ?_⟩ <;> omega

/-! ### FX33 -/

/-- A number no larger than a byte is stored whole: each decimal digit of a byte is one. -/
theorem toNat_ofNat_of_le_byte {b : Byte} {m : Nat} (h : m ≤ b.toNat) : (BitVec.ofNat 8 m).toNat = m := by
  have := b.isLt
  rw [BitVec.toNat_ofNat]
  omega

section
variable {s : State} (hm : MemoryCanonical s)
include hm

theorem read_storeDigits (hI : s.I.toNat + 2 ≤ 0xFFF) (x : RegIdx) {k : Nat} (hk : k < 3) :
    Memory.read (storeDigits x s).mem (s.I.toNat + k) = (decimalDigits (s.reg x)).getD k 0 := by
  have hlen : (decimalDigits (s.reg x)).length = 3 := rfl
  have hr := Memory.read_writeBytes hm (a := s.I.toNat) (bs := decimalDigits (s.reg x))
    (by rw [hlen, lastAddr]; omega) (s.I.toNat + k)
  rwa [if_pos (by omega), Nat.add_sub_cancel_left] at hr

/-- The k-th byte that FX55 stores is V[k], for memory in canonical form. -/
theorem read_storeRegs {x k : RegIdx} (hI : s.I.toNat + x.val ≤ 0xFFF) (hk : k ≤ x) :
    Memory.read (storeRegs x s).mem (s.I.toNat + k.val) = s.reg k := by
  have hk' : k.val ≤ x.val := hk
  have hlen := s.length_regsUpTo x
  have hr := Memory.read_writeBytes hm (a := s.I.toNat) (bs := s.regsUpTo x)
    (by rw [hlen, lastAddr]; omega) (s.I.toNat + k.val)
  rwa [if_pos (by omega), Nat.add_sub_cancel_left, State.getD_regsUpTo hk] at hr

end

/-- Settles O32: in range FX33 stores the three digits at I on and advances. -/
theorem decimalDigitsAreStored : Obligations.DecimalDigitsAreStored := by
  intro s x hm hI
  refine ⟨_, accessAtI_ok (.inr (by omega)) _, ?hundreds, ?tens, ?units, pcMoved_advance rfl,
    ChangesOnly.storeDigits (.inl rfl) ?bytes x⟩
  case hundreds =>
    rw [show s.I.toNat = s.I.toNat + 0 from rfl, read_storeDigits hm hI x (by decide)]
    exact toNat_ofNat_of_le_byte (Nat.div_le_self ..)
  case tens =>
    rw [read_storeDigits hm hI x (by decide)]
    exact toNat_ofNat_of_le_byte ((Nat.mod_le ..).trans (Nat.div_le_self ..))
  case units =>
    rw [read_storeDigits hm hI x (by decide)]
    exact toNat_ofNat_of_le_byte (Nat.mod_le ..)
  case bytes =>
    intro k hk
    interval_cases k
    · exact .inr (.inl rfl)
    · exact .inr (.inr (.inl rfl))
    · exact .inr (.inr (.inr rfl))

/-! ### FX55 and FX65 -/

/-- I past the range of an access that lay in memory does not wrap. -/
theorem toNat_indexPast {s : State} {x : RegIdx} (hI : s.I.toNat + x.val ≤ 0xFFF) :
    (s.indexPast x).I.toNat = s.I.toNat + x.val + 1 := by
  rw [State.indexPast_I, BitVec.toNat_add, BitVec.toNat_ofNat]
  omega

theorem exec_ldMemVx {s : State} {x : RegIdx} (hI : s.I.toNat + x.val ≤ 0xFFF) :
    exec (.ldMemVx x) s = .next (storeRegs x s) :=
  accessAtI_ok (.inr (by omega)) _

theorem exec_ldVxMem {s : State} {x : RegIdx} (hI : s.I.toNat + x.val ≤ 0xFFF) :
    exec (.ldVxMem x) s = .next (fillRegs x s) :=
  accessAtI_ok (.inr (by omega)) _

theorem reg_fillRegs (s : State) {x k : RegIdx} (hk : k ≤ x) :
    (fillRegs x s).reg k = Memory.read s.mem (s.I.toNat + k.val) :=
  (getElem_loadRegs ..).trans (if_pos (Nat.lt_succ_of_le hk))

/-- Settles O33: in range FX55 stores V0 to Vx, moves I past them and advances. -/
theorem storeRegistersWritesVToMemory : Obligations.StoreRegistersWritesVToMemory := fun s x hm hI =>
  ⟨storeRegs x s, exec_ldMemVx hI, fun _ hk => read_storeRegs hm hI hk, toNat_indexPast (s := s) hI,
    pcMoved_advance rfl, ChangesOnly.storeRegs (.inl rfl) (.inr (.inl rfl)) fun k hk => .inr (.inr ⟨k, hk, rfl⟩)⟩

/-- Settles O34: in range FX65 fills V0 to Vx from memory, moves I past the bytes and advances. -/
theorem loadRegistersReadsVFromMemory : Obligations.LoadRegistersReadsVFromMemory := fun s x hI =>
  ⟨fillRegs x s, exec_ldVxMem hI, fun _ hk => reg_fillRegs s hk, toNat_indexPast (s := s) hI,
    pcMoved_advance rfl, ChangesOnly.fillRegs (.inl rfl) (.inr (.inl rfl)) fun k hk => .inr (.inr ⟨k, hk, rfl⟩)⟩

/-- Settles O36: FX65 reads each register's byte where FX55 stored it, and both move the same I on by x + 1. -/
theorem storeThenLoadRestoresRegisters : Obligations.StoreThenLoadRestoresRegisters := by
  intro s t u x hm hI ht hmem huI
  obtain rfl := Host.Outcome.next.inj ((exec_ldMemVx hI).symm.trans ht)
  have hI' : u.I.toNat + x.val ≤ 0xFFF := huI ▸ hI
  refine ⟨fillRegs x u, exec_ldVxMem hI', fun k hk => ?regs, ?index, toNat_indexPast (s := s) hI⟩
  case regs => rw [reg_fillRegs u hk, hmem, huI, read_storeRegs hm hI hk]
  case index => exact congrArg (· + BitVec.ofNat 16 (x.val + 1)) huI

/-- Settles O37: after FX55 pc is where I was, so the next fetch reads the two bytes that hold V0 and V1. -/
theorem fetchSeesTheStoredInstruction : Obligations.FetchSeesTheStoredInstruction := by
  intro s t x hm hf hpc hIpc hx hI ht
  obtain rfl := Host.Outcome.next.inj ((exec_ldMemVx hI).symm.trans ht)
  have hI2 : s.I.toNat = s.pc.toNat + 2 := by
    rw [hIpc, BitVec.toNat_add]
    exact Nat.mod_eq_of_lt (by show s.pc.toNat + 2 < 2 ^ 16; omega)
  have htpc : (storeRegs x s).pc = s.I := hIpc.symm
  have h0 : Memory.read (storeRegs x s).mem s.I.toNat = s.reg 0 := read_storeRegs hm hI (Fin.zero_le x)
  have h1 : Memory.read (storeRegs x s).mem (s.I.toNat + 1) = s.reg 1 := read_storeRegs hm hI (k := 1) hx
  have hstep := step_of_unfaulted (s := storeRegs x s) hf (by rw [htpc]; omega)
  rwa [htpc, h0, h1] at hstep

end Sys2Proof.Machine
end

section
/-! ## Sprites
The frame of showing a display that differs in some pixels only, the loops of DXYN against the picture of
`Safety.spriteBit`, and DXYN in range (44_display.md R142 to R144). -/

namespace Sys2Proof.Safety

open Sys2Proof.Machine

variable {W : Component → Prop} {s t : State}

/-- A display that differs only at pixels in `W`. -/
theorem ChangesOnly.presentOver (h : ChangesOnly W s t) (hr : W .redraw) {d : Display}
    (hd : ∀ col row, ¬ W (.pixel col row) → pixel d col row = pixel t.disp col row) :
    ChangesOnly W s (t.present d) := by
  intro c hc
  cases c with
  | redraw => exact absurd hr hc
  | pixel col row => exact (hd col row hc).trans (h _ hc)
  | _ => exact h _ hc

end Sys2Proof.Safety

namespace Sys2Proof.Machine

open Sys2Proof.Safety

/-! ### The picture -/

/-- The picture of R142 and R143 is what the rows of the drawing loop draw. -/
theorem spriteBit_eq_spriteRowsBit (s : State) (x y : RegIdx) (n : Nat) (col : Fin 64) (row : Fin 32) :
    spriteBit s x y n col row =
      spriteRowsBit s.mem s.I.toNat ((s.reg x).toNat % 64) ((s.reg y).toNat % 32) 0 n col row := by
  simp only [spriteBit, spriteRowsBit, rowBit, Nat.add_zero, ← Bool.and_assoc, ← Bool.decide_and]
  congr 2
  exact propext (by tauto)

/-- A draw XORs the picture into the display. -/
theorem pixel_drawing (s : State) (x y : RegIdx) (n : Nat) (col : Fin 64) (row : Fin 32) :
    pixel (s.drawing x y n).disp col row = (pixel s.disp col row ^^ spriteBit s x y n col row) := by
  rw [spriteBit_eq_spriteRowsBit]
  exact pixel_drawRows ..

/-- A draw collides where the picture has a bit over a pixel that was on. -/
theorem collision_drawing (s : State) (x y : RegIdx) (n : Nat) : (s.drawing x y n).collision = true ↔
    ∃ col row, pixel s.disp col row = true ∧ spriteBit s x y n col row = true := by
  simp only [spriteBit_eq_spriteRowsBit]
  exact (collision_drawRows ..).trans (or_iff_right Bool.false_ne_true)

/-- A sprite of no rows has no picture. -/
theorem spriteBit_zero (s : State) (x y : RegIdx) (col : Fin 64) (row : Fin 32) :
    spriteBit s x y 0 col row = false := by
  simp only [spriteBit, Bool.and_eq_false_iff, decide_eq_false_iff_not]
  left
  omega

/-! ### The draw's effect -/

section
variable (s : State) (x y : RegIdx) (n : Nat)

theorem reg_VF_drawSprite : (drawSprite x y n s).reg 15 = flagByte (s.drawing x y n).collision :=
  (State.setReg_reg ..).trans (if_pos rfl)

theorem drawSprite_collides (h : ∃ col row, pixel s.disp col row = true ∧ spriteBit s x y n col row = true) :
    (drawSprite x y n s).reg 15 = 1 := by
  rw [reg_VF_drawSprite, (collision_drawing s x y n).2 h]
  rfl

theorem drawSprite_misses (h : ∀ col row, spriteBit s x y n col row = true → pixel s.disp col row = false) :
    (drawSprite x y n s).reg 15 = 0 := by
  have hc : (s.drawing x y n).collision = false := by
    rw [← Bool.not_eq_true, collision_drawing]
    rintro ⟨col, row, hp, hb⟩
    exact Bool.false_ne_true ((h col row hb).symm.trans hp)
  rw [reg_VF_drawSprite, hc]
  rfl

end

end Sys2Proof.Machine

namespace Sys2Proof.Safety

open Sys2Proof.Machine

theorem ChangesOnly.drawSprite {W : Component → Prop} {s : State} {x y : RegIdx} {n : Nat} (hpc : W .pc)
    (hr : W .redraw) (hf : W (.reg VF)) (hp : ∀ col row, spriteBit s x y n col row = true → W (.pixel col row)) :
    ChangesOnly W s (drawSprite x y n s) := by
  refine (((ChangesOnly.refl W s).presentOver hr fun col row hW => ?_).setReg hf _).advance hpc
  rw [pixel_drawing, Bool.eq_false_iff.2 (mt (hp col row) hW), Bool.xor_false]

end Sys2Proof.Safety

namespace Sys2Proof.Machine

open Sys2Proof.Safety

/-! ### DXYN in range -/

theorem exec_drw {s : State} {n : Fin 16} (h : n.val = 0 ∨ s.I.toNat + n.val - 1 ≤ 0xFFF) (x y : RegIdx) :
    exec (.drw x y n) s = .next (drawSprite x y n.val s) :=
  accessAtI_ok (by omega) _

/-- Settles O39: DXYN in range has the draw's effect, whose pixels and collision are those of the picture. -/
theorem drawXorsTheClippedSprite : Obligations.DrawXorsTheClippedSprite := fun s x y n h =>
  ⟨_, exec_drw h x y, pixel_drawing s x y n.val, drawSprite_collides s x y n.val, drawSprite_misses s x y n.val, rfl,
    pcMoved_advance rfl, ChangesOnly.drawSprite (.inl rfl) (.inr (.inl rfl)) (.inr (.inr (.inl rfl)))
      fun col row _ => .inr (.inr (.inr ⟨col, row, rfl⟩))⟩

/-- Settles O41: a sprite of no rows reads no byte and has no picture. -/
theorem emptySpriteDrawsNothing : Obligations.EmptySpriteDrawsNothing := by
  refine fun s x y => ⟨_, exec_drw (.inl rfl) x y, drawSprite_misses s x y 0 ?miss, rfl, pcMoved_advance rfl,
    ChangesOnly.drawSprite (.inl rfl) (.inr (.inl rfl)) (.inr (.inr rfl)) ?frame⟩
  all_goals
    intro col row hb
    exact absurd ((spriteBit_zero s x y col row).symm.trans hb) Bool.false_ne_true

/-! ### The same sprite twice -/

/-- The picture depends on memory, I, Vx and Vy alone. -/
theorem spriteBit_congr {s u : State} {x y : RegIdx} (hmem : u.mem = s.mem) (hI : u.I = s.I) (hx : u.reg x = s.reg x)
    (hy : u.reg y = s.reg y) (n : Nat) : spriteBit u x y n = spriteBit s x y n := by
  funext col row
  simp only [spriteBit, hmem, hI, hx, hy]

/-- Settles O40: the second draw XORs the same picture into the first one's display, so every pixel is as it was, and a
pixel is on under a set bit exactly where it was off before the first. -/
theorem drawingTwiceRestoresTheDisplay : Obligations.DrawingTwiceRestoresTheDisplay := by
  intro s t u x y n h ht hdisp hmem hI hx hy
  obtain rfl := Host.Outcome.next.inj ((exec_drw h x y).symm.trans ht)
  have hpic : spriteBit u x y n.val = spriteBit s x y n.val := spriteBit_congr hmem hI hx hy n.val
  have hpix (col : Fin 64) (row : Fin 32) :
      pixel u.disp col row = (pixel s.disp col row ^^ spriteBit s x y n.val col row) := by
    rw [hdisp]; exact pixel_drawing s x y n.val col row
  refine ⟨_, exec_drw (hI ▸ h) x y, Display.ext fun col row => ?restored, fun hoff => drawSprite_collides _ _ _ _ ?on,
    fun hon => drawSprite_misses _ _ _ _ ?off⟩
  case restored =>
    refine (pixel_drawing u x y n.val col row).trans ?_
    rw [hpix, hpic, Bool.xor_assoc, Bool.xor_self, Bool.xor_false]
  case on =>
    obtain ⟨col, row, hb, hp⟩ := hoff
    exact ⟨col, row, by rw [hpix, hp, hb]; rfl, by rw [hpic, hb]⟩
  case off =>
    intro col row hb
    rw [hpic] at hb
    rw [hpix, hon col row hb, hb]; rfl

end Sys2Proof.Machine
end

section
/-! ## The key wait
FX0A when a key of its scan range is pressed and when none is (45_timers_keys.md R153). -/

namespace Sys2Proof.Machine

open Sys2Proof.Config Sys2Proof.Safety

/-- The lowest pressed key is the one the scan finds, for either KEYWAIT_LAST_KEY. -/
theorem scanKeys_of_lowest {s : State} {k : Fin 16} (hlast : k.val ≤ keywaitLast s.params.keywaitLastKey)
    (hk : s.key[k] = true) (hlow : ∀ j : Fin 16, j < k → s.key[j] = false) : s.scanKeys = some k.val :=
  State.scanKeys_eq_some.2 ⟨hlast, k.isLt, hk, fun j hj => hlow ⟨j, hj.trans k.isLt⟩ hj⟩

/-- Settles O43: the scan finds the lowest key or nothing; in the first case FX0A writes Vx and advances, in the second
it answers the state it was given. -/
theorem keyWaitTakesTheLowestKeyOrWaits : Obligations.KeyWaitTakesTheLowestKeyOrWaits := by
  refine fun s x => ⟨fun k hlast hk hlow => ?takes, fun hnone => ⟨s, ?waits, rfl⟩⟩
  case takes =>
    refine completes_setReg (execLdVxK_some (scanKeys_of_lowest hlast hk hlow) x) ?_
    have hk16 := k.isLt
    rw [State.reg_advance_setReg, BitVec.toNat_ofNat]
    omega
  case waits => exact execLdVxK_none (State.scanKeys_eq_none.2 hnone) x

end Sys2Proof.Machine
end

section
/-! ## Every instruction
What the instructions that branch can answer, said once, and what holds of every instruction: it answers a next state,
it changes only what its rule names (00_scope.md R18), and a fault leaves the rest of the state alone
(60_exceptions.md R161). -/

namespace Sys2Proof.Machine

open Sys2Proof.Safety

/-! ### What the branching instructions answer -/

section
variable {s t : State}

theorem execRet_cases (h : execRet s = .next t) :
    t = s.advance ∨ ∃ rest u, s.stack = rest ++ [u] ∧ t = s.popped.setPc (u + 2) := by
  rcases List.eq_nil_or_concat' s.stack with hs | ⟨rest, u, hs⟩
  · exact .inl (Host.Outcome.next.inj (h.symm.trans (execRet_nil hs)))
  · exact .inr ⟨rest, u, hs, Host.Outcome.next.inj (h.symm.trans (execRet_append hs))⟩

theorem execCall_cases {nnn : Addr12} (h : execCall nnn s = .next t) :
    t = s.raise .stackOverflow s.stack.length ∨
      (s.params.stackCapacity ≠ some s.stack.length ∧ t = (s.push s.pc).setPc (absolute nnn)) := by
  by_cases hc : s.params.stackCapacity = some s.stack.length
  · exact .inl (Host.Outcome.next.inj (h.symm.trans (execCall_full hc nnn)))
  · exact .inr ⟨hc, Host.Outcome.next.inj (h.symm.trans (execCall_room hc nnn))⟩

theorem skipOnKey_cases {pressed : Bool} {x : RegIdx} (h : skipOnKey pressed x s = .next t) :
    (∃ b, t = s.skipIf b) ∨ t = s.raise .keyIndexOutOfRange (s.reg x).toNat := by
  by_cases hx : (s.reg x).toNat < 16
  · exact .inl ⟨_, Host.Outcome.next.inj (h.symm.trans (skipOnKey_of_key (k := ⟨_, hx⟩) rfl pressed))⟩
  · exact .inr (Host.Outcome.next.inj (h.symm.trans (skipOnKey_of_noKey (by omega) pressed)))

theorem execLdVxK_cases {x : RegIdx} (h : execLdVxK x s = .next t) : t = s ∨ ∃ b, t = (s.setReg x b).advance := by
  cases hscan : s.scanKeys with
  | none => exact .inl (Host.Outcome.next.inj (h.symm.trans (execLdVxK_none hscan x)))
  | some k => exact .inr ⟨_, Host.Outcome.next.inj (h.symm.trans (execLdVxK_some hscan x))⟩

end

/-! ### Every instruction completes -/

theorem accessAtI_completes (n : Nat) (e : State → State) (s : State) : ∃ t, accessAtI n e s = .next t := by
  unfold accessAtI
  split <;> exact ⟨_, rfl⟩

theorem skipOnKey_completes (pressed : Bool) (x : RegIdx) (s : State) : ∃ t, skipOnKey pressed x s = .next t := by
  unfold skipOnKey
  split <;> exact ⟨_, rfl⟩

theorem exec_completes (i : Instr) (s : State) : ∃ t, exec i s = .next t := by
  cases i with
  | ret =>
    rcases List.eq_nil_or_concat' s.stack with hs | ⟨rest, u, hs⟩
    · exact ⟨_, execRet_nil hs⟩
    · exact ⟨_, execRet_append hs⟩
  | call nnn =>
    by_cases hc : s.params.stackCapacity = some s.stack.length
    · exact ⟨_, execCall_full hc nnn⟩
    · exact ⟨_, execCall_room hc nnn⟩
  | ldVxK x =>
    cases hscan : s.scanKeys with
    | none => exact ⟨_, execLdVxK_none hscan x⟩
    | some k => exact ⟨_, execLdVxK_some hscan x⟩
  | skp | sknp => exact skipOnKey_completes ..
  | drw | ldBVx | ldMemVx | ldVxMem => exact accessAtI_completes ..
  | _ => exact ⟨_, rfl⟩

theorem step_completes {s : State} (hf : Unfaulted s) : ∃ t, step s = .next t := by
  by_cases hpc : s.pc.toNat ≤ 0xFFE
  · rw [step_of_unfaulted hf hpc]
    exact exec_completes ..
  · exact ⟨_, step_fetchFault hf (by omega)⟩

/-- Settles O11: every instruction completes, and so does the fetch fault. -/
theorem everyStepOfAnUnfaultedMachineCompletes : Obligations.EveryStepOfAnUnfaultedMachineCompletes :=
  ⟨exec_completes, fun _ => step_completes⟩

/-! ### The frame of every instruction -/

/-- An access from I writes the fault record or has its effect. -/
theorem changesOnly_accessAtI {W : Component → Prop} {n : Nat} {e : State → State} {s t : State}
    (h : accessAtI n e s = .next t) (hf : W .fault) (he : ChangesOnly W s (e s)) : ChangesOnly W s t := by
  rcases accessAtI_cases h with ⟨-, rfl⟩ | ⟨-, -, rfl⟩
  · exact he
  · exact (raised_raise ..).changesOnly hf

/-- Settles O58: each instruction is a few of the operations whose frames are known, on parts its rule names. -/
theorem instructionsChangeOnlyWhatTheirRulesName : Obligations.InstructionsChangeOnlyWhatTheirRulesName := by
  intro i s t h
  have same : ChangesOnly (Writes s i) s s := ChangesOnly.refl _ s
  cases i with
  | sys | unrecognized => obtain rfl := Host.Outcome.next.inj h; exact same.advance rfl
  | cls =>
    obtain rfl := Host.Outcome.next.inj h
    exact (same.present (.inr (.inl rfl)) (fun col row => .inr (.inr ⟨col, row, rfl⟩)) _).advance (.inl rfl)
  | ret =>
    rcases execRet_cases h with rfl | ⟨rest, u, -, rfl⟩
    · exact same.advance (.inl rfl)
    · exact (same.popped (.inr rfl)).setPc (.inl rfl) _
  | jp | jpV0 => obtain rfl := Host.Outcome.next.inj h; exact same.setPc rfl _
  | call =>
    rcases execCall_cases h with rfl | ⟨-, rfl⟩
    · exact (raised_raise ..).changesOnly (.inr (.inr rfl))
    · exact (same.push (.inr (.inl rfl)) _).setPc (.inl rfl) _
  | seImm | sneImm | seReg | sneReg => obtain rfl := Host.Outcome.next.inj h; exact same.skipIf rfl _
  | skp | sknp =>
    rcases skipOnKey_cases h with ⟨b, rfl⟩ | rfl
    · exact same.skipIf (.inl rfl) b
    · exact (raised_raise ..).changesOnly (.inr rfl)
  | ldImm | addImm | ldReg | orReg | andReg | xorReg | ldVxDt =>
    obtain rfl := Host.Outcome.next.inj h
    exact (same.setReg (.inr rfl) _).advance (.inl rfl)
  | addReg | subReg | shrReg | subnReg | shlReg =>
    obtain rfl := Host.Outcome.next.inj h
    exact (same.writeResultAndFlag (.inr (.inl rfl)) (.inr (.inr rfl)) _ _).advance (.inl rfl)
  | ldI | addIVx | ldFVx => obtain rfl := Host.Outcome.next.inj h; exact (same.setI (.inr rfl) _).advance (.inl rfl)
  | rnd =>
    obtain rfl := Host.Outcome.next.inj h
    exact same.randomInto (.inr (.inl rfl)) (.inr (.inr rfl)) (.inl rfl) _ _
  | ldVxK =>
    rcases execLdVxK_cases h with rfl | ⟨b, rfl⟩
    · exact same
    · exact (same.setReg (.inr rfl) b).advance (.inl rfl)
  | ldDtVx => obtain rfl := Host.Outcome.next.inj h; exact (same.setDT (.inr rfl) _).advance (.inl rfl)
  | ldStVx => obtain rfl := Host.Outcome.next.inj h; exact (same.setST (.inr rfl) _).advance (.inl rfl)
  | drw =>
    exact changesOnly_accessAtI h (.inr (.inr (.inr (.inl rfl)))) (ChangesOnly.drawSprite (.inl rfl)
      (.inr (.inr (.inl rfl))) (.inr (.inl rfl)) fun col row hb => .inr (.inr (.inr (.inr ⟨col, row, hb, rfl⟩))))
  | ldBVx =>
    exact changesOnly_accessAtI h (.inr (.inl rfl))
      (ChangesOnly.storeDigits (.inl rfl) (fun k hk => .inr (.inr ⟨k, hk, rfl⟩)) _)
  | ldMemVx =>
    exact changesOnly_accessAtI h (.inr (.inr (.inl rfl)))
      (ChangesOnly.storeRegs (.inl rfl) (.inr (.inl rfl)) fun k hk => .inr (.inr (.inr ⟨k, hk, rfl⟩)))
  | ldVxMem =>
    exact changesOnly_accessAtI h (.inr (.inr (.inl rfl)))
      (ChangesOnly.fillRegs (.inl rfl) (.inr (.inl rfl)) fun k hk => .inr (.inr (.inr ⟨k, hk, rfl⟩)))

/-- Settles O29: an instruction that changes VF is one whose rule names VF. -/
theorem vfChangesOnlyByFlagInstructionsOrAsDestination :
    Obligations.VFChangesOnlyByFlagInstructionsOrAsDestination := by
  intro i s t h hne
  have hw : Writes s i (.reg 15) := by
    by_contra hw
    exact hne (instructionsChangeOnlyWhatTheirRulesName i s t h (.reg 15) hw)
  cases i with
  | addReg | subReg | shrReg | subnReg | shlReg | drw => trivial
  | ldImm x | addImm x | ldReg x | orReg x | andReg x | xorReg x | rnd x | ldVxDt x | ldVxK x =>
    have hx : 15 = x := by simpa [Writes] using hw
    exact hx.symm
  | ldVxMem x =>
    have hx : 15 ≤ x := by simpa [Writes] using hw
    exact Fin.le_antisymm (Fin.le_last x) hx
  | _ => simp [Writes] at hw

/-! ### The host's own parts -/

/-- No rule names a key, `sound_active` or a parameter (10_state.md R31, R33, R36). -/
theorem not_writes_hostState (s : State) (i : Instr) :
    (∀ k, ¬ Writes s i (.key k)) ∧ ¬ Writes s i .soundActive ∧ ¬ Writes s i .params := by
  cases i <;> simp [Writes]

/-- Settles O59: a fetch fault writes the record alone, and no instruction's rule names those parts. -/
theorem stepNeverWritesHostState : Obligations.StepNeverWritesHostState := by
  intro s t h
  obtain ⟨-, ⟨-, rfl⟩ | ⟨-, w, -, hexec⟩⟩ := step_cases h
  · exact ⟨rfl, rfl, rfl⟩
  · have hframe := instructionsChangeOnlyWhatTheirRulesName _ s t hexec
    obtain ⟨hkey, hsound, hparams⟩ := not_writes_hostState s (decodeWord s.params.skipRRDecode w)
    exact ⟨Vector.ext fun k hk => hframe (.key ⟨k, hk⟩) (hkey _), hframe _ hsound, hframe _ hparams⟩

/-! ### Faults -/

/-- An access from I that its effect does not fault. -/
theorem accessAtI_raise_or {n : Nat} {e : State → State} {s t : State} (h : accessAtI n e s = .next t)
    (he : (e s).fault = s.fault) : t.fault = s.fault ∨ ∃ code info, code ≠ .imageTooLarge ∧ t = s.raise code info := by
  rcases accessAtI_cases h with ⟨-, rfl⟩ | ⟨-, -, rfl⟩
  · exact .inl he
  · exact .inr ⟨_, _, by decide, rfl⟩

/-- An instruction leaves the fault field alone, or raises a fault and does nothing else (60_exceptions.md R161). -/
theorem exec_raise_or {i : Instr} {s t : State} (h : exec i s = .next t) :
    t.fault = s.fault ∨ ∃ code info, code ≠ .imageTooLarge ∧ t = s.raise code info := by
  by_cases hw : Writes s i .fault
  · cases i with
    | call =>
      rcases execCall_cases h with rfl | ⟨-, rfl⟩
      · exact .inr ⟨_, _, by decide, rfl⟩
      · exact .inl rfl
    | skp | sknp =>
      rcases skipOnKey_cases h with ⟨b, rfl⟩ | rfl
      · exact .inl (State.skipIf_fault s b)
      · exact .inr ⟨_, _, by decide, rfl⟩
    | drw | ldBVx | ldMemVx | ldVxMem => exact accessAtI_raise_or h rfl
    | _ => simp [Writes] at hw
  · exact .inl (instructionsChangeOnlyWhatTheirRulesName i s t h .fault hw)

theorem step_raise_or {s t : State} (h : step s = .next t) :
    t.fault = none ∨ ∃ code info, code ≠ .imageTooLarge ∧ t = s.raise code info := by
  obtain ⟨hf, ⟨-, rfl⟩ | ⟨-, w, -, hexec⟩⟩ := step_cases h
  · exact .inr ⟨_, _, by decide, rfl⟩
  · exact hf ▸ exec_raise_or hexec

/-- Settles O12: a Step that faults has raised the fault and done nothing else. -/
theorem faultingStepWritesOnlyTheRecord : Obligations.FaultingStepWritesOnlyTheRecord := by
  intro s t r h hr
  rcases step_raise_or h with hnone | ⟨code, info, hcode, rfl⟩
  · rw [hnone] at hr; cases hr
  · obtain rfl := Option.some.inj hr
    exact ⟨rfl, rfl, hcode⟩

end Sys2Proof.Machine
end

section
/-! ## What no instruction reads
An instruction does to the state less ST, `redraw` and `sound_active` what it does to the whole state, those three parts
aside (10_state.md R29, R33). -/

namespace Sys2Proof.Machine

open Sys2Proof.Safety

/-! ### The shared operations without the unread parts -/

theorem withoutUnread_skipIf (s : State) (b : Bool) :
    withoutUnread ((withoutUnread s).skipIf b) = withoutUnread (s.skipIf b) := by
  cases b <;> rfl

theorem withoutUnread_writeResultAndFlag (s : State) (x : RegIdx) (r f : Byte) :
    withoutUnread ((withoutUnread s).writeResultAndFlag x r f).advance =
      withoutUnread (s.writeResultAndFlag x r f).advance := by
  have hparams : (withoutUnread s).params = s.params := rfl
  unfold State.writeResultAndFlag
  rw [hparams]
  cases s.params.vfWriteOrder <;> rfl

/-- An access from I whose effect does not read them. -/
theorem accessAtI_withoutUnread {n : Nat} {e : State → State} {s t : State} (h : accessAtI n e s = .next t)
    (he : withoutUnread (e (withoutUnread s)) = withoutUnread (e s)) :
    ∃ u, accessAtI n e (withoutUnread s) = .next u ∧ withoutUnread u = withoutUnread t := by
  rcases accessAtI_cases h with ⟨hr, rfl⟩ | ⟨hn, hr, rfl⟩
  · exact ⟨_, accessAtI_ok (s := withoutUnread s) hr e, he⟩
  · exact ⟨_, accessAtI_fault (s := withoutUnread s) ⟨hn, hr⟩ e, rfl⟩

theorem skipOnKey_withoutUnread {pressed : Bool} {x : RegIdx} {s t : State} (h : skipOnKey pressed x s = .next t) :
    ∃ u, skipOnKey pressed x (withoutUnread s) = .next u ∧ withoutUnread u = withoutUnread t := by
  by_cases hx : (s.reg x).toNat < 16
  · obtain rfl := Host.Outcome.next.inj ((skipOnKey_of_key (k := ⟨_, hx⟩) rfl pressed).symm.trans h)
    exact ⟨_, skipOnKey_of_key (s := withoutUnread s) (k := ⟨_, hx⟩) rfl pressed, withoutUnread_skipIf s _⟩
  · obtain rfl := Host.Outcome.next.inj ((skipOnKey_of_noKey (by omega) pressed).symm.trans h)
    exact ⟨_, skipOnKey_of_noKey (s := withoutUnread s) (Nat.not_lt.1 hx) pressed, rfl⟩

theorem execRet_withoutUnread {s t : State} (h : execRet s = .next t) :
    ∃ u, execRet (withoutUnread s) = .next u ∧ withoutUnread u = withoutUnread t := by
  rcases List.eq_nil_or_concat' s.stack with hs | ⟨rest, w, hs⟩
  · obtain rfl := Host.Outcome.next.inj ((execRet_nil hs).symm.trans h)
    exact ⟨_, execRet_nil (s := withoutUnread s) hs, rfl⟩
  · obtain rfl := Host.Outcome.next.inj ((execRet_append hs).symm.trans h)
    exact ⟨_, execRet_append (s := withoutUnread s) hs, rfl⟩

theorem execCall_withoutUnread {nnn : Addr12} {s t : State} (h : execCall nnn s = .next t) :
    ∃ u, execCall nnn (withoutUnread s) = .next u ∧ withoutUnread u = withoutUnread t := by
  by_cases hc : s.params.stackCapacity = some s.stack.length
  · obtain rfl := Host.Outcome.next.inj ((execCall_full hc nnn).symm.trans h)
    exact ⟨_, execCall_full (s := withoutUnread s) hc nnn, rfl⟩
  · obtain rfl := Host.Outcome.next.inj ((execCall_room hc nnn).symm.trans h)
    exact ⟨_, execCall_room (s := withoutUnread s) hc nnn, rfl⟩

theorem execLdVxK_withoutUnread {x : RegIdx} {s t : State} (h : execLdVxK x s = .next t) :
    ∃ u, execLdVxK x (withoutUnread s) = .next u ∧ withoutUnread u = withoutUnread t := by
  cases hscan : s.scanKeys with
  | none =>
    obtain rfl := Host.Outcome.next.inj ((execLdVxK_none hscan x).symm.trans h)
    exact ⟨_, execLdVxK_none (s := withoutUnread s) hscan x, rfl⟩
  | some k =>
    obtain rfl := Host.Outcome.next.inj ((execLdVxK_some hscan x).symm.trans h)
    exact ⟨_, execLdVxK_some (s := withoutUnread s) hscan x, rfl⟩

/-! ### Every instruction and the Step -/

theorem exec_withoutUnread {i : Instr} {s t : State} (h : exec i s = .next t) :
    ∃ u, exec i (withoutUnread s) = .next u ∧ withoutUnread u = withoutUnread t := by
  cases i with
  | ret => exact execRet_withoutUnread h
  | call => exact execCall_withoutUnread h
  | ldVxK => exact execLdVxK_withoutUnread h
  | skp | sknp => exact skipOnKey_withoutUnread h
  | drw | ldBVx | ldMemVx | ldVxMem => exact accessAtI_withoutUnread h rfl
  | seImm | sneImm | seReg | sneReg =>
    obtain rfl := Host.Outcome.next.inj h
    exact ⟨_, rfl, withoutUnread_skipIf s _⟩
  | addReg | subReg | shrReg | subnReg | shlReg =>
    obtain rfl := Host.Outcome.next.inj h
    exact ⟨_, rfl, withoutUnread_writeResultAndFlag s _ _ _⟩
  | _ =>
    obtain rfl := Host.Outcome.next.inj h
    exact ⟨_, rfl, rfl⟩

theorem step_withoutUnread {s t : State} (h : step s = .next t) :
    ∃ u, step (withoutUnread s) = .next u ∧ withoutUnread u = withoutUnread t := by
  obtain ⟨hf, ⟨hpc, rfl⟩ | ⟨-, w, hw, hexec⟩⟩ := step_cases h
  · exact ⟨_, step_fetchFault (s := withoutUnread s) hf hpc, rfl⟩
  · rw [step_of_fetch (s := withoutUnread s) hf hw]
    exact exec_withoutUnread hexec

/-- Settles O60: both Steps are, the three parts aside, the Step of the one state that is left without them. -/
theorem unreadStateNeverMatters : Obligations.UnreadStateNeverMatters := by
  intro s s' t hsame h
  have hf' : Unfaulted s' := (congrArg State.fault hsame).symm.trans (step_cases h).1
  obtain ⟨t', h'⟩ := step_completes hf'
  obtain ⟨u, hu, hut⟩ := step_withoutUnread h
  obtain ⟨u', hu', hut'⟩ := step_withoutUnread h'
  obtain rfl : u = u' := Host.Outcome.next.inj (hu.symm.trans (hsame ▸ hu'))
  exact ⟨t', h', hut.symm.trans hut'⟩

end Sys2Proof.Machine
end

section
/-! ## The invariants
What an instruction can do to memory and to the stack, and the three invariants kept by every Step: canonical memory,
bounded addresses (10_state.md R25) and a stack within its capacity (R27). -/

namespace Sys2Proof.Machine

open Sys2Proof.Config Sys2Proof.Safety

/-! ### Memory -/

/-- Instructions store consecutive bytes or leave memory as it is. -/
theorem exec_mem {i : Instr} {s t : State} (h : exec i s = .next t) :
    t.mem = s.mem ∨ ∃ a bs, t.mem = Memory.writeBytes s.mem a bs := by
  cases i with
  | ldBVx | ldMemVx =>
    rcases accessAtI_cases h with ⟨-, rfl⟩ | ⟨-, -, rfl⟩
    · exact .inr ⟨_, _, rfl⟩
    · exact .inl rfl
  | drw | ldVxMem => rcases accessAtI_cases h with ⟨-, rfl⟩ | ⟨-, -, rfl⟩ <;> exact .inl rfl
  | ret => rcases execRet_cases h with rfl | ⟨-, -, -, rfl⟩ <;> exact .inl rfl
  | call => rcases execCall_cases h with rfl | ⟨-, rfl⟩ <;> exact .inl rfl
  | skp | sknp =>
    rcases skipOnKey_cases h with ⟨b, rfl⟩ | rfl
    · exact .inl (State.skipIf_mem s b)
    · exact .inl rfl
  | ldVxK => rcases execLdVxK_cases h with rfl | ⟨b, rfl⟩ <;> exact .inl rfl
  | seImm | sneImm | seReg | sneReg => obtain rfl := Host.Outcome.next.inj h; exact .inl (State.skipIf_mem ..)
  | addReg | subReg | shrReg | subnReg | shlReg =>
    obtain rfl := Host.Outcome.next.inj h
    exact .inl (State.writeResultAndFlag_mem ..)
  | _ => obtain rfl := Host.Outcome.next.inj h; exact .inl rfl

/-- Settles O53: a store of consecutive bytes keeps the canonical form. -/
theorem stepKeepsMemoryCanonical : Obligations.StepKeepsMemoryCanonical := by
  intro s t hm h
  obtain ⟨-, ⟨-, rfl⟩ | ⟨-, w, -, hexec⟩⟩ := step_cases h
  · exact hm
  · rcases exec_mem hexec with hmem | ⟨a, bs, hmem⟩ <;> rw [MemoryCanonical, hmem]
    · exact hm
    · exact Memory.writeBytes_wf hm a bs

/-! ### The stack -/

/-- RET pops, CALL pushes its own address on a stack that is not full, and no other instruction touches the stack. -/
theorem exec_stack {i : Instr} {s t : State} (h : exec i s = .next t) :
    t.stack = s.stack ∨ t.stack = s.stack.dropLast ∨
      (s.params.stackCapacity ≠ some s.stack.length ∧ t.stack = s.stack ++ [s.pc]) := by
  by_cases hw : Writes s i .stack
  · cases i with
    | ret =>
      rcases execRet_cases h with rfl | ⟨-, -, -, rfl⟩
      · exact .inl rfl
      · exact .inr (.inl rfl)
    | call =>
      rcases execCall_cases h with rfl | ⟨hroom, rfl⟩
      · exact .inl rfl
      · exact .inr (.inr ⟨hroom, rfl⟩)
    | _ => simp [Writes] at hw
  · exact .inl (instructionsChangeOnlyWhatTheirRulesName i s t h .stack hw)

theorem step_stack {s t : State} (h : step s = .next t) :
    t.stack = s.stack ∨ t.stack = s.stack.dropLast ∨
      (s.params.stackCapacity ≠ some s.stack.length ∧ s.pc.toNat ≤ 0xFFE ∧ t.stack = s.stack ++ [s.pc]) := by
  obtain ⟨-, ⟨-, rfl⟩ | ⟨hpc, w, -, hexec⟩⟩ := step_cases h
  · exact .inl rfl
  · rcases exec_stack hexec with hst | hst | ⟨hroom, hst⟩
    · exact .inl hst
    · exact .inr (.inl hst)
    · exact .inr (.inr ⟨hroom, hpc, hst⟩)

/-- Settles O55: a push finds a stack that is within its capacity and not full. -/
theorem stepKeepsStackWithinCapacity : Obligations.StepKeepsStackWithinCapacity := by
  intro s t hs h n hn
  obtain ⟨-, -, hparams⟩ := stepNeverWritesHostState s t h
  rw [hparams] at hn
  have hle := hs n hn
  rcases step_stack h with hst | hst | ⟨hroom, -, hst⟩
  · rwa [hst]
  · rw [hst, List.length_dropLast]
    omega
  · have hne : s.stack.length ≠ n := fun e => hroom (e ▸ hn)
    rw [hst, List.length_append, List.length_singleton]
    omega

/-! ### Addresses -/

theorem pcMoved_le {d : Nat} {s t : State} (h : PcMoved d s t) (hpc : s.pc.toNat ≤ 0xFFE) (hd : d ≤ 4) :
    t.pc.toNat ≤ 0x10FE := by
  rw [h]
  omega

theorem pcMoved_skip_le {P : Prop} [Decidable P] {s t : State} (h : PcMoved (if P then 4 else 2) s t)
    (hpc : s.pc.toNat ≤ 0xFFE) : t.pc.toNat ≤ 0x10FE :=
  pcMoved_le h hpc (by split <;> decide)

/-- An instruction that lies in memory and completes leaves pc at most at the largest target, FFF + FF, of BNNN. -/
theorem exec_pc_le {i : Instr} {s t : State} (hf : Unfaulted s) (hpc : s.pc.toNat ≤ 0xFFE)
    (hstack : ∀ w ∈ s.stack, w.toNat ≤ 0xFFE) (h : exec i s = .next t) (ht : Unfaulted t) : t.pc.toNat ≤ 0x10FE := by
  have hconv := pcConvention i s t hf h ht
  cases i with
  | jp nnn | call nnn =>
    have hn := nnn.isLt
    have htarget : t.pc.toNat = nnn.toNat := hconv
    omega
  | jpV0 nnn =>
    have hn := nnn.isLt
    have hb := (s.reg 0).isLt
    have htarget : t.pc.toNat = (nnn.toNat + (s.reg 0).toNat) % 65536 := hconv
    omega
  | ret =>
    obtain ⟨hempty, hpopped⟩ := hconv
    rcases List.eq_nil_or_concat' s.stack with hs | ⟨rest, u, hs⟩
    · exact pcMoved_le (hempty hs) hpc (by decide)
    · have hu : u.toNat ≤ 0xFFE := hstack u (by simp [hs])
      have htarget : t.pc.toNat = (u.toNat + 2) % 65536 := hpopped rest u hs
      omega
  | skp | sknp =>
    rcases skipOnKey_cases h with ⟨b, rfl⟩ | rfl
    · exact pcMoved_skip_le (pcMoved_skipIf s Iff.rfl) hpc
    · cases ht
  | ldVxK =>
    rcases execLdVxK_cases h with rfl | ⟨b, rfl⟩
    · omega
    · exact pcMoved_le (pcMoved_advance (State.setReg_pc ..)) hpc (by decide)
  | seImm | sneImm | seReg | sneReg => exact pcMoved_skip_le hconv hpc
  | _ => exact pcMoved_le hconv hpc (by decide)

/-- Settles O54: pc by the convention of R84, a pushed address from a pc that lay in memory. -/
theorem stepKeepsAddressesBounded : Obligations.StepKeepsAddressesBounded := by
  intro s t ⟨hpc, hstack⟩ h
  refine ⟨?pc, fun w hw => ?stack⟩
  case pc =>
    obtain ⟨hf, ⟨-, rfl⟩ | ⟨hpc', w, -, hexec⟩⟩ := step_cases h
    · exact hpc
    · rcases step_raise_or h with ht | ⟨code, info, -, rfl⟩
      · exact exec_pc_le hf hpc' hstack hexec ht
      · exact hpc
  case stack =>
    rcases step_stack h with hst | hst | ⟨-, hpc', hst⟩ <;> rw [hst] at hw
    · exact hstack w hw
    · exact hstack w (List.mem_of_mem_dropLast hw)
    · rcases List.mem_append.1 hw with hw | hw
      · exact hstack w hw
      · rwa [List.mem_singleton.1 hw]

/-! ### Creation -/

theorem create_memoryCanonical (p : Params) (n : Nat) : MemoryCanonical (State.create p n) :=
  ⟨List.Pairwise.nil, fun _ h => nomatch h⟩

theorem create_addressesBounded (p : Params) (n : Nat) : AddressesBounded (State.create p n) :=
  ⟨by rw [State.create_pc]; decide, fun _ h => nomatch h⟩

theorem create_stackWithinCapacity (p : Params) (n : Nat) : StackWithinCapacity (State.create p n) :=
  fun m _ => Nat.zero_le m

/-- Settles O56: a created machine lists no byte and no stack entry, and its pc is 200. -/
theorem createdMachineMeetsTheInvariants : Obligations.CreatedMachineMeetsTheInvariants :=
  ⟨fun p n => ⟨create_memoryCanonical p n, create_addressesBounded p n, create_stackWithinCapacity p n,
      State.create_fault p n⟩,
    create_memoryCanonical _ _, create_addressesBounded _ _, create_stackWithinCapacity _ _, State.create_fault _ _⟩

end Sys2Proof.Machine
end

section
/-! ## Frames that fault or wait
A Frame along the run of its Steps, to a tick or to a fault, and a Frame that waits at FX0A (60_exceptions.md R170,
45_timers_keys.md R153). -/

namespace Sys2Proof.Machine

open Sys2Proof.Config Sys2Proof.Safety

/-- The rest of a Frame ends where the run of its Steps reaches a fault. -/
theorem frameSteps_of_run_faulted {t : State} (ht : ¬ Unfaulted t) {k n : Nat} {s : State} (hs : Unfaulted s)
    (hk : k ≤ n) (h : Host.Core.run Sys2Proof.core k s = .next t) : frameSteps n s = .next t := by
  induction k generalizing n s with
  | zero => exact absurd (Host.Outcome.next.inj h ▸ hs) ht
  | succ k ih =>
    obtain ⟨m, rfl⟩ : ∃ m, n = m + 1 := ⟨n - 1, by omega⟩
    obtain ⟨u, hu, hrun⟩ := exists_step_of_run_succ h
    by_cases hfu : Unfaulted u
    · rw [frameSteps_succ hu hfu]
      exact ih hfu (by omega) hrun
    · rw [frameSteps_succ_fault hu hfu]
      cases k with
      | zero => exact hrun
      | succ k =>
        obtain ⟨v, hv, -⟩ := exists_step_of_run_succ hrun
        exact absurd (step_cases hv).1 hfu

/-- Settles O45: the Frame follows the run of its Steps, to the ninth or to the one that faults. -/
theorem frameIsNineStepsThenATick : Obligations.FrameIsNineStepsThenATick :=
  ⟨fun _ _ hs hrun ht => (frame_of_unfaulted hs).trans (frameSteps_of_run ht hrun),
    fun _ _ _ hs hk hrun ht => (frame_of_unfaulted hs).trans (frameSteps_of_run_faulted ht hs hk hrun)⟩

/-- Steps that leave the state as it is leave only the tick of a Frame. -/
theorem frameSteps_of_step_fixed {s : State} (hf : Unfaulted s) (h : step s = .next s) (k : Nat) :
    frameSteps k s = .next (timerTick s) := by
  induction k with
  | zero => rfl
  | succ k ih => rw [frameSteps_succ h hf, ih]

/-- Settles O46: FX0A with no key pressed answers the state it was given, nine times over. -/
theorem waitingFrameOnlyTicks : Obligations.WaitingFrameOnlyTicks := by
  intro s w x hf hw hdec hkeys
  have hstep : step s = .next s := by
    rw [step_of_fetch hf hw, hdec]
    exact execLdVxK_none (State.scanKeys_eq_none.2 hkeys) x
  rw [frame_of_unfaulted hf, frameSteps_of_step_fixed hf hstep]

end Sys2Proof.Machine
end

section
/-! ## The host's operations
SetKey, ClearRedraw and the two loads (60_exceptions.md R172, R175; 70_reset_and_hazards.md R191, R193), and the
invariants kept by every operation, whole Frames included. -/

namespace Sys2Proof.Safety

open Sys2Proof.Machine

variable {W : Component → Prop} {s t : State}

theorem ChangesOnly.setKey (h : ChangesOnly W s t) {k : Fin 16} (hk : W (.key k)) (b : Bool) :
    ChangesOnly W s (t.setKey k b) := by
  intro c hc
  cases c with
  | key j =>
    have hkj : k.val ≠ j.val := fun e => hc (Fin.ext e ▸ hk)
    exact (Vector.getElem_set_ne k.isLt j.isLt hkj).trans (h _ hc)
  | _ => exact h _ hc

theorem ChangesOnly.clearRedraw (h : ChangesOnly W s t) (hr : W .redraw) : ChangesOnly W s (clearRedraw t) := by
  intro c hc
  cases c with
  | redraw => exact absurd hr hc
  | _ => exact h _ hc

end Sys2Proof.Safety

namespace Sys2Proof.Machine

open Sys2Proof.Config Sys2Proof.Safety

/-! ### Keys and redraw -/

theorem hostSetKey_of_key (k : Fin 16) (b : Bool) (s : State) : hostSetKey k.val b s = .next (s.setKey k b) :=
  dif_pos k.isLt

theorem hostSetKey_of_noKey {k : Nat} (h : 15 < k) (b : Bool) (s : State) : hostSetKey k b s = .refused (.notAKey k) :=
  dif_neg (by omega)

/-- Settles O48: a key in range is written alone, one out of range refused, and ClearRedraw clears the flag alone. -/
theorem setKeyAndClearRedrawWriteOneFlag : Obligations.SetKeyAndClearRedrawWriteOneFlag := by
  refine fun s b => ⟨fun k => ⟨_, hostSetKey_of_key k b s, Vector.getElem_set_self k.isLt, ?key⟩,
    fun k hk => hostSetKey_of_noKey hk b s, ⟨clearRedraw s, rfl, rfl, ?redraw⟩⟩
  case key => exact (ChangesOnly.refl (· = .key k) s).setKey rfl b
  case redraw => exact (ChangesOnly.refl (· = .redraw) s).clearRedraw rfl

/-! ### The loads -/

/-- A byte of a list stored within memory reads back. -/
theorem read_writeBytes_getElem {m : Memory} (hm : Memory.wf m) {a : Nat} {bs : List Byte}
    (ha : a + bs.length ≤ lastAddr + 1) {k : Nat} (hk : k < bs.length) :
    Memory.read (Memory.writeBytes m a bs) (a + k) = bs[k] := by
  rw [Memory.read_writeBytes hm ha, if_pos (by omega), Nat.add_sub_cancel_left, List.getD_eq_getElem _ _ hk]

theorem length_font (s : State) : s.params.font.toList.length = 80 := Vector.length_toList

/-- Settles O49: the 80 bytes of FONT are stored from address 0 on. -/
theorem loadGlyphsWritesTheFont : Obligations.LoadGlyphsWritesTheFont := by
  intro s hm
  have hlen := length_font s
  refine ⟨loadGlyphs s, rfl, fun k => ?bytes, (ChangesOnly.refl _ s).writeBytes fun k hk => ?frame⟩
  case frame => exact ⟨k, hlen ▸ hk, by rw [Nat.zero_add]⟩
  case bytes =>
    have hk : k.val < s.params.font.toList.length := by omega
    have hr := read_writeBytes_getElem hm (a := 0) (by rw [hlen, lastAddr]; omega) hk
    rwa [Nat.zero_add] at hr

theorem loadProgram_fits {img : List Byte} (h : img.length ≤ 3584) (s : State) :
    loadProgram img s = s.setMem (Memory.writeBytes s.mem 0x200 img) :=
  if_neg (by omega)

theorem loadProgram_tooLong {img : List Byte} (h : 3584 < img.length) (s : State) :
    loadProgram img s = s.raise .imageTooLarge img.length :=
  if_pos (by omega)

/-- Settles O50: an image that fits is stored from 200 on; a longer one raises the fault. -/
theorem loadProgramCopiesTheImage : Obligations.LoadProgramCopiesTheImage := by
  refine fun s img hm => ⟨fun hfits => ⟨_, congrArg Host.Outcome.next (loadProgram_fits hfits s), fun k hk => ?bytes,
    ?frame⟩, fun hlong => ⟨_, congrArg Host.Outcome.next (loadProgram_tooLong hlong s), raised_raise ..⟩⟩
  case bytes => exact read_writeBytes_getElem hm (by rw [lastAddr]; omega) hk
  case frame => exact (ChangesOnly.refl _ s).writeBytes fun k hk => ⟨k, hk, rfl⟩

/-- Stores to disjoint ranges of memory commute. -/
theorem writeBytes_comm {m : Memory} (hm : Memory.wf m) {a b : Nat} {as bs : List Byte} (hab : a + as.length ≤ b)
    (hb : b + bs.length ≤ lastAddr + 1) :
    Memory.writeBytes (Memory.writeBytes m a as) b bs = Memory.writeBytes (Memory.writeBytes m b bs) a as := by
  have hma := Memory.writeBytes_wf hm a as
  have hmb := Memory.writeBytes_wf hm b bs
  refine Memory.ext (Memory.writeBytes_wf hma b bs) (Memory.writeBytes_wf hmb a as) fun c => ?_
  rw [Memory.read_writeBytes hma hb, Memory.read_writeBytes hm (by omega), Memory.read_writeBytes hmb (by omega),
    Memory.read_writeBytes hm hb]
  by_cases hca : a ≤ c ∧ c < a + as.length
  · rw [if_pos hca, if_neg (by omega), if_pos hca]
  · rw [if_neg hca, if_neg hca]

/-- Settles O51: FONT ends at 4F and the image begins at 200, so the two stores commute. -/
theorem loadOrderDoesNotMatter : Obligations.LoadOrderDoesNotMatter := by
  intro s img hm hfits
  have hlen := length_font s
  rw [loadProgram_fits hfits, loadProgram_fits hfits]
  exact congrArg s.setMem (writeBytes_comm hm (by omega) (by rw [lastAddr]; omega))

/-! ### The invariants -/

/-- What every Step and the tick keep, a Frame keeps. -/
theorem frameSteps_keeps {P : State → Prop} (hstep : ∀ s t, P s → step s = .next t → P t)
    (htick : ∀ s, P s → P (timerTick s)) {k : Nat} {s t : State} (hs : P s) (h : frameSteps k s = .next t) : P t := by
  induction k generalizing s with
  | zero => obtain rfl := Host.Outcome.next.inj h; exact htick s hs
  | succ k ih =>
    cases hu : step s with
    | next u =>
      by_cases hfu : u.fault = none
      · exact ih (hstep s u hs hu) (frameSteps_succ hu hfu k ▸ h)
      · obtain rfl := Host.Outcome.next.inj ((frameSteps_succ_fault hu hfu k).symm.trans h)
        exact hstep s u hs hu
    | fault r => simp only [frameSteps, hu] at h; cases h
    | refused r => simp only [frameSteps, hu] at h; cases h

theorem frame_keeps {P : State → Prop} (hstep : ∀ s t, P s → step s = .next t → P t)
    (htick : ∀ s, P s → P (timerTick s)) {s t : State} (hs : P s) (h : frame s = .next t) : P t := by
  cases hf : s.fault with
  | some r => cases (frame_of_faulted hf).symm.trans h
  | none => exact frameSteps_keeps hstep htick hs ((frame_of_unfaulted hf).symm.trans h)

theorem loadProgram_memoryCanonical {s : State} (hm : MemoryCanonical s) (img : List Byte) :
    MemoryCanonical (loadProgram img s) := by
  unfold loadProgram
  split
  · exact hm
  · exact Memory.writeBytes_wf hm _ _

/-- A load leaves pc, the stack and the parameters alone. -/
theorem loadProgram_control (img : List Byte) (s : State) : (loadProgram img s).pc = s.pc ∧
    (loadProgram img s).stack = s.stack ∧ (loadProgram img s).params = s.params := by
  unfold loadProgram
  split <;> exact ⟨rfl, rfl, rfl⟩

/-- Settles O57: a Frame by the Steps and the tick it is made of, the loads by the stores they make; every other
operation leaves memory, pc and the stack alone or creates a machine. -/
theorem hostOperationsKeepTheInvariants : Obligations.HostOperationsKeepTheInvariants := by
  intro op s t h
  cases op with
  | create =>
    obtain rfl := Host.Outcome.next.inj h
    exact ⟨fun _ => create_memoryCanonical _ _, fun _ => create_addressesBounded _ _,
      fun _ => create_stackWithinCapacity _ _⟩
  | loadGlyphs =>
    obtain rfl := Host.Outcome.next.inj h
    exact ⟨fun hm => Memory.writeBytes_wf hm _ _, id, id⟩
  | loadProgram img =>
    obtain rfl := Host.Outcome.next.inj h
    obtain ⟨hpc, hstack, hparams⟩ := loadProgram_control img s
    refine ⟨fun hm => loadProgram_memoryCanonical hm img, fun ha => ?_, fun hs => ?_⟩
    · rwa [AddressesBounded, hpc, hstack]
    · rwa [StackWithinCapacity, hstack, hparams]
  | step =>
    exact ⟨fun hm => stepKeepsMemoryCanonical s t hm h, fun ha => stepKeepsAddressesBounded s t ha h,
      fun hs => stepKeepsStackWithinCapacity s t hs h⟩
  | frame =>
    exact ⟨fun hm => frame_keeps stepKeepsMemoryCanonical (fun _ => id) hm h,
      fun ha => frame_keeps stepKeepsAddressesBounded (fun _ => id) ha h,
      fun hs => frame_keeps stepKeepsStackWithinCapacity (fun _ => id) hs h⟩
  | setKey k b =>
    by_cases hk : k < 16
    · obtain rfl := Host.Outcome.next.inj ((hostSetKey_of_key ⟨k, hk⟩ b s).symm.trans h)
      exact ⟨id, id, id⟩
    · cases (hostSetKey_of_noKey (Nat.not_lt.1 hk) b s).symm.trans h
  | readFramebuffer | readRedraw | readSoundActive | clearRedraw =>
    obtain rfl := Host.Outcome.next.inj h
    exact ⟨id, id, id⟩

end Sys2Proof.Machine
end
